-- ==== Sys2Proof/Word.lean ====
section
/-! DEFINITION. The words of the block: bytes, 16-bit fields, 32-bit values, milliseconds (R10, R11, R12). -/

namespace Sys2Proof

/-- One stream element (BYTE_W = 8, R10). -/
abbrev Byte := BitVec 8

/-- A length or opcode field (LEN_W = OPC_W = 16, R10). -/
abbrev Half := BitVec 16

/-- A 32-bit value: binary32 bits (R11). -/
abbrev Word := BitVec 32

/-- A clock reading or a count of milliseconds (CLK_W = TOUT_W = 32, R10, D3, D11). -/
abbrev Millis := BitVec 32

end Sys2Proof
end

