-- ==== Sys2Proof/Config.lean ====
section
/-! DEFINITION. The block's parameters (R10), at the values the source or the spec's decisions give them, and the values
the spec leaves open, each an opaque constant with no body. -/

namespace Sys2Proof

/-- MAX_LEN: the largest accepted payload length of a received frame (R10). -/
abbrev Config.maxLen : Nat := 250

/-- PBUF_CAP: capacity of the parser's payload buffer (R10, R26). -/
abbrev Config.pbufCap : Nat := 256

/-- TX_BUF_CAP: capacity of the transactor's buffer (R10, D8). DESIGN CHOICE, log 20: the parameter at its default. -/
abbrev Config.txBufCap : Nat := 250

/-- TX_ARG_MAX: the longest argument string of an exchange (R10, D34). -/
abbrev Config.txArgMax : Nat := 248

/-- DEFAULT_TIMEOUT_MS (R10, R158). -/
abbrev Config.defaultTimeout : Millis := 1000

/-- STALE_MS: the fixed staleness threshold (R10, R176). -/
abbrev Config.staleMs : Nat := 3000

/-- PERIOD_MIN (R10, R154). -/
abbrev Config.periodMin : Half := 50

/-- PERIOD_MAX (R10, R154). -/
abbrev Config.periodMax : Half := 1000

/-- The line settings of the serial link (LINK_CONFIG, R10, D33). -/
structure LinkConfig where
  /-- bits per second -/
  baudRate : Nat
  /-- data bits of a character -/
  dataBits : Nat
  /-- parity: 0 none, 1 odd, 2 even -/
  parity : Nat
  /-- stop bits of a character -/
  stopBits : Nat
  deriving DecidableEq, Repr, Inhabited

/-- LINK_CONFIG is open: no rule depends on it (R10, R215, D33). Safe, log 19. -/
opaque Config.linkConfig : LinkConfig

/-- The free values of unwritten registers: the n-th draw (R35 to R37, R184, R210, D19). Safe, log 5. -/
opaque Config.draw : Nat → Word

/-- The free bits of a NaN quotient, by its dividend (R175 says only that NaN gives NaN). Safe, log 17. -/
opaque Config.nanQuotient : Word → Word

end Sys2Proof
end

