-- ==== Sys2Proof/Syntax.lean ====
section
/-! DEFINITION. The block's instructions: the host operations of R86 and the received wire frames, one constructor for each row
of spec/opcode_table.json; and the frame the parser emits (R122). -/

namespace Sys2Proof

/-- The two header and footer alphabets (R19, R23, R101). -/
inductive Alphabet where
  | report
  | config
  deriving DecidableEq, Repr, Inhabited

/-- An emitted frame (R28, R122): its kind, its 16-bit length and its payload in wire order. -/
structure Frame where
  kind : Alphabet
  length : Half
  payload : List Byte
  deriving DecidableEq, Repr, Inhabited

/-- The instructions. A `timeout` is a host argument in milliseconds, not on the wire (R86, R158). -/
inductive Instr where
  /-- ENTER_CFG (R150). -/
  | enterCfg (timeout : Millis)
  /-- EXIT_CFG (R152). -/
  | exitCfg (timeout : Millis)
  /-- SET_PERIOD (R153): the caller's period, before the clamp. -/
  | setPeriod (period : Half) (timeout : Millis)
  /-- SET_MIN_DIST (R155). -/
  | setMinDist (mm : Half) (timeout : Millis)
  /-- SET_MAX_DIST (R156). -/
  | setMaxDist (mm : Half) (timeout : Millis)
  /-- FACTORY_RESET (R157). -/
  | factoryReset (timeout : Millis)
  /-- EXCHANGE (R130, R149). -/
  | exchange (op : Half) (args : List Byte) (timeout : Millis)
  /-- READ_VERSION (R161). -/
  | readVersion
  /-- READ_PERIOD (R161). -/
  | readPeriod
  /-- READ_MIN_DIST (R161). -/
  | readMinDist
  /-- READ_MAX_DIST (R161). -/
  | readMaxDist
  /-- UPDATE (R165). -/
  | update
  /-- HAS_NEW_DATA (R173). -/
  | hasNewData
  /-- GET_MM (R174). -/
  | getMm
  /-- GET_M (R175). -/
  | getM
  /-- IS_CONNECTED (R176). -/
  | isConnected
  /-- REPORT_FRAME (R123, R169): a received report frame. -/
  | reportFrame (payload : List Byte)
  /-- DISTANCE_REPORT (R168): a received report frame of length 4, with the binary32 bits it carries. -/
  | distanceReport (d : Word)
  /-- CONFIG_FRAME (R170): a config frame received on the background path. -/
  | configFrame (payload : List Byte)
  /-- CONFIG_ACK (R144): a config frame read by the scan of an exchange, its echoed opcode and further payload bytes. -/
  | configAck (echo : Half) (rest : List Byte)
  deriving DecidableEq, Repr, Inhabited

end Sys2Proof
end

