-- ==== Sys2Proof/WellFormed.lean ====
section
/-! DEFINITION. Which terms of Instr a row of the opcode table stands for: the length bounds of R70, R75, R76, R92. A host may
still request an EXCHANGE that is not well formed: R130 says that it is refused. -/

namespace Sys2Proof

/-- An emitted frame's length is its payload's, at most MAX_LEN (R28, R122). -/
abbrev Frame.WellFormed (f : Frame) : Prop :=
  f.length.toNat = f.payload.length ∧ f.payload.length ≤ Config.maxLen

/-- The length bounds of the rows: EXCHANGE 0 to 248 argument bytes (R75); REPORT_FRAME and CONFIG_FRAME 0 to 250 payload bytes
(R70), a report of length 4 being the row DISTANCE_REPORT (R92); CONFIG_ACK 2 to 250 payload bytes (R76). -/
def Instr.wellFormed : Instr → Bool
  | .enterCfg _ => true
  | .exitCfg _ => true
  | .setPeriod _ _ => true
  | .setMinDist _ _ => true
  | .setMaxDist _ _ => true
  | .factoryReset _ => true
  | .exchange _ args _ => decide (args.length ≤ Config.txArgMax)
  | .readVersion => true
  | .readPeriod => true
  | .readMinDist => true
  | .readMaxDist => true
  | .update => true
  | .hasNewData => true
  | .getMm => true
  | .getM => true
  | .isConnected => true
  | .reportFrame p => decide (p.length ≤ Config.maxLen ∧ p.length ≠ 4)
  | .distanceReport _ => true
  | .configFrame p => decide (p.length ≤ Config.maxLen)
  | .configAck _ rest => decide (2 + rest.length ≤ Config.txBufCap)

/-- The operations of the host port (R86): every row but the four received frames. -/
def Instr.isHostOp : Instr → Bool
  | .enterCfg _ => true
  | .exitCfg _ => true
  | .setPeriod _ _ => true
  | .setMinDist _ _ => true
  | .setMaxDist _ _ => true
  | .factoryReset _ => true
  | .exchange _ _ _ => true
  | .readVersion => true
  | .readPeriod => true
  | .readMinDist => true
  | .readMaxDist => true
  | .update => true
  | .hasNewData => true
  | .getMm => true
  | .getM => true
  | .isConnected => true
  | .reportFrame _ => false
  | .distanceReport _ => false
  | .configFrame _ => false
  | .configAck _ _ => false

end Sys2Proof
end

