-- ==== Sys2Proof/Decode.lean ====
section
/-! DEFINITION. The wire formats: byte order, the two alphabets, the decoder of sent requests, of received frames and of
acknowledgements, and the encoder (30_encoding.md). A request and a received config frame have the same bytes: the PORT says
which it is (log 14). Host operations with no wire form have no encoding (R87). -/

namespace Sys2Proof

/-! Byte order (R13, R50). -/

/-- `le16(b0, b1)`: the first byte on the wire is the low one (R13). -/
def le16 (b0 b1 : Byte) : Half := b0.setWidth 16 ||| (b1.setWidth 16 <<< 8)

/-- `le32(b0, b1, b2, b3)` (R13). -/
def le32 (b0 b1 b2 b3 : Byte) : Word :=
  b0.setWidth 32 ||| (b1.setWidth 32 <<< 8) ||| (b2.setWidth 32 <<< 16) ||| (b3.setWidth 32 <<< 24)

/-- Byte `k` of a value: bits `8k+7` down to `8k`. -/
def byteOf {n : Nat} (v : BitVec n) (k : Nat) : Byte := (v >>> (8 * k)).setWidth 8

/-- `u16_le(v)` (R13). -/
def u16le (v : Half) : List Byte := [byteOf v 0, byteOf v 1]

/-- The four bytes of a 32-bit value, least significant first (R73). -/
def u32le (v : Word) : List Byte := [byteOf v 0, byteOf v 1, byteOf v 2, byteOf v 3]

/-! The alphabets (R101). -/

/-- `HDR[a][0..3]` (R101). -/
def hdr : Alphabet → List Byte
  | .report => [0xF4, 0xF3, 0xF2, 0xF1]
  | .config => [0xFD, 0xFC, 0xFB, 0xFA]

/-- `FTR[a][0..3]` (R101). -/
def ftr : Alphabet → List Byte
  | .report => [0xF8, 0xF7, 0xF6, 0xF5]
  | .config => [0x04, 0x03, 0x02, 0x01]

/-- `HDR[a][k]`. -/
def hdrByte (a : Alphabet) (k : Nat) : Byte := (hdr a).getD k 0

/-- `FTR[a][k]`. -/
def ftrByte (a : Alphabet) (k : Nat) : Byte := (ftr a).getD k 0

/-- The first byte alone selects the alphabet (R84, R101). -/
def alphabetOf (b : Byte) : Option Alphabet :=
  if b = 0xF4 then some .report else if b = 0xFD then some .config else none

/-! The opcode map (R79). -/

def opEnterCfg : Half := 0x00FF
def opExitCfg : Half := 0x00FE
def opSetPeriod : Half := 0x0071
def opSetMinDist : Half := 0x0074
def opSetMaxDist : Half := 0x0075
def opFactoryReset : Half := 0x00A2

/-- The clamp of SET_PERIOD, made before encoding (R154). -/
def clampPeriod (p : Half) : Half :=
  if p < Config.periodMin then Config.periodMin
  else if p > Config.periodMax then Config.periodMax
  else p

/-! Decoding. -/

/-- Why bytes are refused, by name. -/
inductive DecodeError where
  /-- the bytes end before the frame does -/
  | truncated
  /-- byte 0 starts no header (R104) -/
  | badStart (b : Byte)
  /-- header byte `k` does not match the alphabet (R108) -/
  | badHeader (k : Nat) (b : Byte)
  /-- a length over 250 (R112, R142) -/
  | lengthOver (n : Half)
  /-- a config frame too short to hold an opcode (R142) -/
  | lengthUnder (n : Half)
  /-- footer byte `k` does not match the alphabet (R121) -/
  | badFooter (k : Nat) (b : Byte)
  /-- a report frame where a config frame is read: the block sends none (R71) -/
  | notConfig
  deriving DecidableEq, Repr

/-- Match the expected bytes in order; `err k b` names the mismatch at position `k`. -/
def matchBytes (err : Nat → Byte → DecodeError) : Nat → List Byte → List Byte → Except DecodeError (List Byte)
  | _, [], bs => .ok bs
  | _, _ :: _, [] => .error .truncated
  | k, e :: es, b :: bs => if b = e then matchBytes err (k + 1) es bs else .error (err k b)

/-- The two length bytes (R50, R77). -/
def takeLength : List Byte → Except DecodeError (Half × List Byte)
  | lo :: hi :: bs => .ok (le16 lo hi, bs)
  | _ => .error .truncated

/-- The payload by count alone, whatever its bytes (R94, R116). -/
def takePayload (n : Nat) (bs : List Byte) : Except DecodeError (List Byte × List Byte) :=
  if bs.length < n then .error .truncated else .ok (bs.take n, bs.drop n)

/-- The part of a frame after its header: length, payload, footer (R92). -/
def decodeBody (a : Alphabet) (bs : List Byte) : Except DecodeError (Frame × List Byte) :=
  match takeLength bs with
  | .error e => .error e
  | .ok (n, bs1) =>
    if n.toNat > Config.maxLen then .error (.lengthOver n)
    else match takePayload n.toNat bs1 with
      | .error e => .error e
      | .ok (payload, bs2) =>
        match matchBytes .badFooter 0 (ftr a) bs2 with
        | .error e => .error e
        | .ok rest => .ok (⟨a, n, payload⟩, rest)

/-- One whole received frame from its first byte, and the bytes after it (R92). -/
def decodeFrame : List Byte → Except DecodeError (Frame × List Byte)
  | [] => .error .truncated
  | b :: bs =>
    match alphabetOf b with
    | none => .error (.badStart b)
    | some a =>
      match matchBytes .badHeader 0 (hdr a) (b :: bs) with
      | .error e => .error e
      | .ok body => decodeBody a body

/-- The row a received frame is, by its kind and length (R92, R167 to R170). -/
def Instr.ofFrame (f : Frame) : Instr :=
  match f.kind with
  | .config => .configFrame f.payload
  | .report =>
    match f.payload with
    | [b0, b1, b2, b3] => .distanceReport (le32 b0 b1 b2 b3)
    | p => .reportFrame p

/-- The row a request is, by its opcode and arguments (R79, R91); the timeout is not on the wire and takes its default (R86).
A SET_PERIOD row has any value in its operand bytes (log 15). -/
def Instr.ofRequest (op : Half) (args : List Byte) : Instr :=
  match args with
  | [] =>
    if op = opExitCfg then .exitCfg Config.defaultTimeout
    else if op = opFactoryReset then .factoryReset Config.defaultTimeout
    else .exchange op [] Config.defaultTimeout
  | [a0, a1] =>
    if op = opEnterCfg ∧ a0 = 0x01 ∧ a1 = 0x00 then .enterCfg Config.defaultTimeout
    else if op = opSetPeriod then .setPeriod (le16 a0 a1) Config.defaultTimeout
    else if op = opSetMinDist then .setMinDist (le16 a0 a1) Config.defaultTimeout
    else if op = opSetMaxDist then .setMaxDist (le16 a0 a1) Config.defaultTimeout
    else .exchange op [a0, a1] Config.defaultTimeout
  | more => .exchange op more Config.defaultTimeout

/-- A sent request: a config frame whose payload holds an opcode and arguments (R72, R74). -/
def decodeRequest (bs : List Byte) : Except DecodeError (Instr × List Byte) :=
  match decodeFrame bs with
  | .error e => .error e
  | .ok (f, rest) =>
    match f.kind, f.payload with
    | .report, _ => .error .notConfig
    | .config, lo :: hi :: args => .ok (Instr.ofRequest (le16 lo hi) args, rest)
    | .config, _ => .error (.lengthUnder f.length)

/-- An acknowledgement as the transactor reads it: config header, a length of 2 to 250, the payload; the footer is not read
(R76, R81, R93). -/
def decodeAck (bs : List Byte) : Except DecodeError (Instr × List Byte) :=
  match matchBytes .badHeader 0 (hdr .config) bs with
  | .error e => .error e
  | .ok bs1 =>
    match takeLength bs1 with
    | .error e => .error e
    | .ok (n, bs2) =>
      if n.toNat > Config.txBufCap then .error (.lengthOver n)
      else match takePayload n.toNat bs2 with
        | .error e => .error e
        | .ok (lo :: hi :: more, rest) => .ok (.configAck (le16 lo hi) more, rest)
        | .ok _ => .error (.lengthUnder n)

/-- Where bytes are read: sent by the block, received by the parser, or received by the scan of an exchange (R72, R92, R93). -/
inductive Port where
  | sent
  | background
  | scan
  deriving DecidableEq, Repr

/-- The decoder: the instruction at the head of the bytes, and the bytes after it. -/
def decode (port : Port) (bs : List Byte) : Except DecodeError (Instr × List Byte) :=
  match port with
  | .sent => decodeRequest bs
  | .scan => decodeAck bs
  | .background =>
    match decodeFrame bs with
    | .error e => .error e
    | .ok (f, rest) => .ok (Instr.ofFrame f, rest)

/-- `n` bytes of a number, least significant first. -/
def leBytes : Nat → Nat → List Byte
  | 0, _ => []
  | n + 1, w => BitVec.ofNat 8 w :: leBytes n (w / 256)

/-- The first port that takes the bytes: sent, then background, then scan (log 14). -/
def decodeAny (bs : List Byte) : Option Instr :=
  match decode .sent bs with
  | .ok (i, _) => some i
  | .error _ =>
    match decode .background bs with
    | .ok (i, _) => some i
    | .error _ =>
      match decode .scan bs with
      | .ok (i, _) => some i
      | .error _ => none

/-- The instruction of an opcode-table word whose byte `k` is bits `8k+7` to `8k`; the bytes above `nbits` are 0 (log 14). The
longest frame has 260 bytes (R70). -/
def decodeTableWord (nbits w : Nat) : Option Instr :=
  decodeAny (leBytes ((nbits + 7) / 8) w ++ List.replicate 260 0)

/-! Encoding. -/

/-- The opcode, arguments and timeout of the exchange an operation makes (R150 to R157, R130); none for the others. -/
def Instr.request : Instr → Option (Half × List Byte × Millis)
  | .enterCfg t => some (opEnterCfg, [0x01, 0x00], t)
  | .exitCfg t => some (opExitCfg, [], t)
  | .setPeriod p t => some (opSetPeriod, u16le (clampPeriod p), t)
  | .setMinDist mm t => some (opSetMinDist, u16le mm, t)
  | .setMaxDist mm t => some (opSetMaxDist, u16le mm, t)
  | .factoryReset t => some (opFactoryReset, [], t)
  | .exchange op args t => some (op, args, t)
  | .readVersion => none
  | .readPeriod => none
  | .readMinDist => none
  | .readMaxDist => none
  | .update => none
  | .hasNewData => none
  | .getMm => none
  | .getM => none
  | .isConnected => none
  | .reportFrame _ => none
  | .distanceReport _ => none
  | .configFrame _ => none
  | .configAck _ _ => none

/-- `REQ(op, args)` (R134). -/
def encodeRequest (op : Half) (args : List Byte) : List Byte :=
  hdr .config ++ u16le (BitVec.ofNat 16 (2 + args.length)) ++ u16le op ++ args ++ ftr .config

/-- The generic frame format (R70). -/
def encodeFrame (a : Alphabet) (payload : List Byte) : List Byte :=
  hdr a ++ u16le (BitVec.ofNat 16 payload.length) ++ payload ++ ftr a

/-- The bytes of an acknowledgement that the transactor reads (R76, R81). -/
def encodeAck (echo : Half) (rest : List Byte) : List Byte :=
  hdr .config ++ u16le (BitVec.ofNat 16 (2 + rest.length)) ++ u16le echo ++ rest

/-- The port an instruction's bytes are read at; none for an operation with no wire form (R87). -/
def Instr.port : Instr → Option Port
  | .enterCfg _ => some .sent
  | .exitCfg _ => some .sent
  | .setPeriod _ _ => some .sent
  | .setMinDist _ _ => some .sent
  | .setMaxDist _ _ => some .sent
  | .factoryReset _ => some .sent
  | .exchange _ _ _ => some .sent
  | .readVersion => none
  | .readPeriod => none
  | .readMinDist => none
  | .readMaxDist => none
  | .update => none
  | .hasNewData => none
  | .getMm => none
  | .getM => none
  | .isConnected => none
  | .reportFrame _ => some .background
  | .distanceReport _ => some .background
  | .configFrame _ => some .background
  | .configAck _ _ => some .scan

/-- The wire bytes of an instruction; none for an operation with no wire form (R87). -/
def encode : Instr → List Byte
  | .enterCfg _ => encodeRequest opEnterCfg [0x01, 0x00]
  | .exitCfg _ => encodeRequest opExitCfg []
  | .setPeriod p _ => encodeRequest opSetPeriod (u16le (clampPeriod p))
  | .setMinDist mm _ => encodeRequest opSetMinDist (u16le mm)
  | .setMaxDist mm _ => encodeRequest opSetMaxDist (u16le mm)
  | .factoryReset _ => encodeRequest opFactoryReset []
  | .exchange op args _ => encodeRequest op args
  | .readVersion => []
  | .readPeriod => []
  | .readMinDist => []
  | .readMaxDist => []
  | .update => []
  | .hasNewData => []
  | .getMm => []
  | .getM => []
  | .isConnected => []
  | .reportFrame p => encodeFrame .report p
  | .distanceReport d => encodeFrame .report (u32le d)
  | .configFrame p => encodeFrame .config p
  | .configAck echo rest => encodeAck echo rest

/-- What the wire keeps of an instruction: a timeout is not sent and reads as the default (R86), a period is sent clamped (R153),
and an EXCHANGE that names one of the six operations is that operation's request (R79). -/
def Instr.onWire : Instr → Instr
  | .enterCfg _ => .enterCfg Config.defaultTimeout
  | .exitCfg _ => .exitCfg Config.defaultTimeout
  | .setPeriod p _ => .setPeriod (clampPeriod p) Config.defaultTimeout
  | .setMinDist mm _ => .setMinDist mm Config.defaultTimeout
  | .setMaxDist mm _ => .setMaxDist mm Config.defaultTimeout
  | .factoryReset _ => .factoryReset Config.defaultTimeout
  | .exchange op args _ => Instr.ofRequest op args
  | .readVersion => .readVersion
  | .readPeriod => .readPeriod
  | .readMinDist => .readMinDist
  | .readMaxDist => .readMaxDist
  | .update => .update
  | .hasNewData => .hasNewData
  | .getMm => .getMm
  | .getM => .getM
  | .isConnected => .isConnected
  | .reportFrame p => .reportFrame p
  | .distanceReport d => .distanceReport d
  | .configFrame p => .configFrame p
  | .configAck echo rest => .configAck echo rest

end Sys2Proof
end

