-- ==== Sys2Proof/Machine/State.lean ====
section
/-! DEFINITION. The state of the block and its ports (10_state.md), as plain data: the units P, T and C, the ports, the marks, and
the acts of the outside agents still to come, without end. -/

namespace Sys2Proof.Machine

/-- A byte buffer: (index, byte) cells, indices strictly rising, no listed byte equal to what an unlisted index reads as. -/
abbrev Memory := List Host.Cell

/-- What an index that nothing has written reads as. DESIGN CHOICE (R26, R32 leave it unspecified), unsafe, log 7. -/
def Memory.blank : Byte := 0

/-- The canonical form. -/
def Memory.wf : Memory → Bool
  | [] => true
  | [c] => decide (c.2 ≠ Memory.blank)
  | c :: d :: m => decide (c.2 ≠ Memory.blank) && decide (c.1 < d.1) && Memory.wf (d :: m)

/-- `P.STATE` (R22). -/
inductive PState where
  | wh1 | wh2 | wh3 | wh4 | wl1 | wl2 | wp | wf1 | wf2 | wf3 | wf4
  deriving DecidableEq, Repr, Inhabited

/-- `T.PHASE` (R29). -/
inductive Phase where
  | idle | drain | send | scan
  deriving DecidableEq, Repr, Inhabited

/-- `T.POS` (R30). -/
inductive Pos where
  | h0 | h1 | h2 | h3 | l0 | l1 | pl
  deriving DecidableEq, Repr, Inhabited

/-- The recovery events and the info they record (R186). -/
inductive Event where
  | pHdrMismatch (k : Nat) (b : Byte)
  | pFtrMismatch (k : Nat) (b : Byte)
  | pOversize (len : Half)
  | cReportBadLen (len : Half)
  | tHdrMismatch (k : Nat) (b : Byte)
  | tLenInvalid (len : Half)
  | tOpcodeMismatch (echo : Half)
  | tTimeout
  deriving DecidableEq, Repr, Inhabited

/-- The model faults (R190): the reasons of the mark FAULT. -/
inductive Fault where
  /-- UPDATE requested while T.PHASE is not IDLE: raised by UPDATE's meaning and by the host port. Safe: the machine stops (R191). -/
  | hostInterleave
  /-- Another host operation requested while one runs: raised by the host operations and by the host port. Safe: the machine
  stops (R191). -/
  | hostReentry
  /-- ReadByte on an empty stream: raised by readByte, which no rule of the block calls so (R190). Safe: the machine stops. -/
  | readEmpty
  /-- A buffer index that R59 says does not exist: raised by UPDATE and by the scan, only in states no run reaches. Safe: the
  machine stops. Log 8. -/
  | noSuchIndex
  deriving DecidableEq, Repr, Inhabited

/-- The reasons of the mark REFUSED (R192). -/
inductive RefuseReason where
  /-- REFUSE_READBACK (R161). -/
  | readback
  /-- REFUSE_ARG_LENGTH (R130). -/
  | argLength
  deriving DecidableEq, Repr, Inhabited

/-- Outcomes that give an instruction no meaning. The spec's own refusals are no such outcome: they are recorded in the mark
REFUSED and the machine goes on (R192, log 10). -/
inductive Refusal where
  /-- An instruction this model gives no meaning: raised by no arm of exec now. Safe: the machine stops. -/
  | notModelled (mnemonic : String)
  deriving DecidableEq, Repr, Inhabited

/-- What the host response port carries when an operation returns (R49). -/
inductive Response where
  /-- the return of UPDATE -/
  | unit
  /-- a boolean result -/
  | bool (b : Bool)
  /-- binary32 bits -/
  | f32 (bits : Word)
  /-- `(T.OK, T.RESP)` of the exchange primitive -/
  | exchange (ok : Bool) (resp : List Byte)
  deriving DecidableEq, Repr, Inhabited

/-- One act of the schedule (R204, R88, R89): what an outside agent does, or whose turn it is. Log 2. -/
inductive Stimulus where
  /-- the environment appends bytes to RXQ (R46) -/
  | rx (bytes : List Byte)
  /-- the clock input reads `t` from now on (R47) -/
  | clk (t : Millis)
  /-- the environment takes `n` bytes off the front of TXQ (R204) -/
  | tx (n : Nat)
  /-- the host requests an operation (R49) -/
  | call (i : Instr)
  /-- the block's turn: one atomic action (R58) -/
  | block
  /-- the block is created anew (R210, R212) -/
  | reset
  deriving DecidableEq, Repr, Inhabited

end Sys2Proof.Machine

namespace Sys2Proof

/-- The acts of a schedule that nothing constrains: the n-th free act (R204, R227, D27). Safe, log 2. -/
opaque Config.freeAct : Nat → Machine.Stimulus

end Sys2Proof

namespace Sys2Proof.Machine

/-- The acts that come once the agenda is used up, without end: the environment need never leave RXQ empty at a check (R227, D12).
Log 2. -/
inductive Endless where
  /-- `first`, then `others`, over and over -/
  | cycle (first : Stimulus) (others : List Stimulus)
  /-- the free acts Config.freeAct n, Config.freeAct (n + 1), … -/
  | free (n : Nat)
  deriving DecidableEq, Repr, Inhabited

/-- Unit P, the frame parser (R22 to R27). -/
structure Parser where
  /-- P.STATE -/
  state : PState
  /-- P.ALPH -/
  alph : Alphabet
  /-- P.LEN -/
  len : Half
  /-- P.IDX -/
  idx : Byte
  /-- P.BUF[0..255] -/
  buf : Memory
  deriving DecidableEq, Repr, Inhabited

/-- Unit T, the command transactor (R29 to R34). -/
structure Transactor where
  /-- T.PHASE -/
  phase : Phase
  /-- T.POS -/
  pos : Pos
  /-- T.OP -/
  op : Half
  /-- T.ARGS -/
  args : List Byte
  /-- T.TOUT -/
  tout : Millis
  /-- T.T0 -/
  t0 : Millis
  /-- T.LEN -/
  len : Half
  /-- T.IDX -/
  idx : Byte
  /-- T.BUF[0..249] -/
  buf : Memory
  /-- T.OK -/
  ok : Bool
  /-- T.RESP -/
  resp : List Byte
  deriving DecidableEq, Repr, Inhabited

/-- Unit C, the frame consumer (R35 to R39). -/
structure Consumer where
  /-- C.MM_BITS -/
  mmBits : Word
  /-- C.OBS_T -/
  obsT : Millis
  /-- C.LAST_T -/
  lastT : Millis
  /-- C.NEW -/
  new : Bool
  /-- C.CFG_MODE -/
  cfgMode : Bool
  deriving DecidableEq, Repr, Inhabited

/-- The whole machine. -/
structure State where
  /-- unit P -/
  P : Parser
  /-- unit T -/
  T : Transactor
  /-- unit C -/
  C : Consumer
  /-- RXQ, oldest byte first (R46) -/
  rxq : List Byte
  /-- TXQ, oldest byte first (R48) -/
  txq : List Byte
  /-- the clock input (R47) -/
  now : Millis
  /-- FRAME_OUT, valid for one step (R28) -/
  frameOut : Option Frame
  /-- the host operation in flight (R49, R190) -/
  running : Option Instr
  /-- the host response port (R49) -/
  response : Option Response
  /-- the mark FAULT (R42) -/
  fault : Option Fault
  /-- the mark REFUSED (R42) -/
  refused : Option RefuseReason
  /-- the model's own: the acts still to come, first act first (log 2) -/
  agenda : List Stimulus
  /-- the model's own: the acts after those of the agenda, without end (R227, log 2) -/
  endless : Endless
  /-- the model's own: how many free values have been taken (log 6) -/
  draws : Nat
  /-- the model's own: the events raised, oldest first (R185, log 11) -/
  trace : List Event
  deriving DecidableEq, Repr, Inhabited

/-- Unit P at reset (R210). All but P.STATE: DESIGN CHOICE, log 4. -/
def Parser.reset : Parser := { state := .wh1, alph := .report, len := 0, idx := 0, buf := [] }

/-- Unit T at reset (R210). All but T.PHASE, T.POS and T.RESP: DESIGN CHOICE, log 4. -/
def Transactor.reset : Transactor :=
  { phase := .idle, pos := .h0, op := 0, args := [], tout := 0, t0 := 0, len := 0, idx := 0, buf := [], ok := false, resp := [] }

/-- Unit C at reset (R210): the unwritten registers hold free values from draw `n` on. Log 5. -/
def Consumer.resetAt (n : Nat) : Consumer :=
  { mmBits := Config.draw n, obsT := Config.draw (n + 1), lastT := Config.draw (n + 2), new := false, cfgMode := false }

/-- The machine right after reset (R210, R211), with empty streams and the clock at 0 (log 3); no outside agent acts (log 2). -/
def State.reset : State :=
  { P := Parser.reset, T := Transactor.reset, C := Consumer.resetAt 0, rxq := [], txq := [], now := 0, frameOut := none,
    running := none, response := none, fault := none, refused := none, agenda := [],
    endless := .cycle .block [], draws := 3, trace := [] }

end Sys2Proof.Machine
end

