-- ==== Sys2Proof/Machine/Ops.lean ====
section
/-! DEFINITION. The named operations over buffers, ports, marks and the host port (00_scope.md R16, R17; 10_state.md), the numeric
codes of states, tags, phases and events (D7, R186), and reset (R210). There is no trap to enter or return from: a recovery event
is recorded by raise and handled by the action that finds it (R198, R199). -/

namespace Sys2Proof.Machine

/-! Buffers. -/

/-- The byte at an index. -/
def Memory.read : Memory → Nat → Byte
  | [], _ => Memory.blank
  | c :: m, a => if c.1 = a then c.2 else Memory.read m a

/-- Write a byte, keeping the canonical form. -/
def Memory.write : Memory → Nat → Byte → Memory
  | [], a, v => if v = Memory.blank then [] else [(a, v)]
  | c :: m, a, v =>
    if a < c.1 then (if v = Memory.blank then c :: m else (a, v) :: c :: m)
    else if a = c.1 then (if v = Memory.blank then m else (a, v) :: m)
    else c :: Memory.write m a v

/-- Bytes `from .. from+n-1` in index order (`s[i..j)`, R13). -/
def Memory.range (m : Memory) (start n : Nat) : List Byte := (List.range n).map (fun k => m.read (start + k))

/-- A buffer that holds the given bytes from index `start` on. -/
def Memory.ofBytes : Nat → List Byte → Memory
  | _, [] => []
  | start, b :: bs => (Memory.ofBytes (start + 1) bs).write start b

/-! Numeric codes: names only, no behaviour depends on them (D7, D20). -/

def PState.code : PState → Nat
  | .wh1 => 0 | .wh2 => 1 | .wh3 => 2 | .wh4 => 3 | .wl1 => 4 | .wl2 => 5 | .wp => 6
  | .wf1 => 7 | .wf2 => 8 | .wf3 => 9 | .wf4 => 10

def alphabetCode : Alphabet → Nat
  | .report => 0 | .config => 1

def Phase.code : Phase → Nat
  | .idle => 0 | .drain => 1 | .send => 2 | .scan => 3

def Pos.code : Pos → Nat
  | .h0 => 0 | .h1 => 1 | .h2 => 2 | .h3 => 3 | .l0 => 4 | .l1 => 5 | .pl => 6

def Event.code : Event → Nat
  | .pHdrMismatch _ _ => 1 | .pFtrMismatch _ _ => 2 | .pOversize _ => 3 | .cReportBadLen _ => 4
  | .tHdrMismatch _ _ => 5 | .tLenInvalid _ => 6 | .tOpcodeMismatch _ => 7 | .tTimeout => 8

/-! Port primitives (R16). -/

/-- `Avail()` (R46). -/
def State.avail (s : State) : Nat := s.rxq.length

/-- `ReadByte()` (R16, R46, R57): removes and returns the oldest input byte. -/
def State.readByte (s : State) : Except Fault (Byte × State) :=
  match s.rxq with
  | [] => .error .readEmpty
  | b :: bs => .ok (b, { s with rxq := bs })

/-- `WriteBytes(bytes)` (R48): one append that never blocks and never fails. -/
def State.writeBytes (s : State) (bytes : List Byte) : State := { s with txq := s.txq ++ bytes }

/-- `Emit(frame)` (R16, R28). -/
def State.emit (s : State) (f : Frame) : State := { s with frameOut := some f }

/-- FRAME_OUT is valid for one step only (R28, R195). -/
def State.clearFrameOut (s : State) : State := { s with frameOut := none }

/-- The environment appends to RXQ (R46). -/
def State.appendRx (s : State) (bytes : List Byte) : State := { s with rxq := s.rxq ++ bytes }

/-- The environment takes bytes off TXQ (R204). -/
def State.takeTx (s : State) (n : Nat) : State := { s with txq := s.txq.drop n }

/-- The clock input reads `t` (R47). -/
def State.setClock (s : State) (t : Millis) : State := { s with now := t }

/-! Events and marks (R17). -/

/-- `raise event` (R185): recorded in the trace, which no rule reads. -/
def State.raise (s : State) (e : Event) : State := { s with trace := s.trace ++ [e] }

/-- Record the event a parser step raised, if any. -/
def State.raiseAll (s : State) : Option Event → State
  | none => s
  | some e => s.raise e

/-- `refuse reason` (R192): the mark is set at most once (R42); nothing else changes. -/
def State.refuse (s : State) (r : RefuseReason) : State := { s with refused := s.refused.or (some r) }

/-- The mark FAULT (R42): set at most once. -/
def State.markFault (s : State) (r : Fault) : State := { s with fault := s.fault.or (some r) }

/-! The host port (R49). -/

/-- `return v`: the operation in flight ends and its result is on the response port (R17, R49). -/
def State.respond (s : State) (v : Response) : State := { s with running := none, response := some v }

/-- The operation `i` is in flight. -/
def State.run (s : State) (i : Instr) : State := { s with running := some i }

/-- A new request clears the response port: its own result comes when it returns (R68, log 12). -/
def State.clearResponse (s : State) : State := { s with response := none }

/-- Some operation other than `i` is in flight. -/
def State.busyWithOther (s : State) (i : Instr) : Bool :=
  match s.running with
  | none => false
  | some j => decide (j ≠ i)

/-- What a request meets on the host port while an operation runs (R190); none when the port is free. -/
def State.requestFault (s : State) (i : Instr) : Option Fault :=
  if s.running.isNone then none
  else if i = .update ∧ s.T.phase ≠ .idle then some .hostInterleave
  else some .hostReentry

/-- An operation of one action runs only when none is in flight (R190). -/
def State.whenFree (s : State) (t : State) : Host.Outcome State Fault Refusal :=
  if s.running.isSome then .fault .hostReentry else .next t

/-! Reset (R210 to R214). -/

/-- The block is created anew: units, frame port and host port as at reset, the unwritten registers holding fresh free values
(log 23). The streams, the clock (R212), the marks (R42) and the trace stay. -/
def State.resetBlock (s : State) : State :=
  { s with P := Parser.reset, T := Transactor.reset, C := Consumer.resetAt s.draws, frameOut := none, running := none,
           response := none, draws := s.draws + 3 }

end Sys2Proof.Machine
end

