-- ==== Sys2Proof/Machine/Operands.lean ====
section
/-! DEFINITION. What the rules read and compute before they write: elapsed time (R61), the frame a parser holds (R122), the
acknowledgement a scan holds (R143, R144), the staleness and timeout tests (R139, R176). -/

namespace Sys2Proof.Machine

/-- Elapsed milliseconds between two clock reads, modulo 2^32 (R61). -/
def elapsed (since now : Millis) : Millis := now - since

/-- The timeout check of a scan pass (R139). -/
def State.timedOut (s : State) : Bool := decide (elapsed s.T.t0 s.now ≥ s.T.tout)

/-- ConnectionState, derived and not stored (R40, R176). -/
def State.connected (s : State) : Bool := decide ((elapsed s.C.lastT s.now).toNat < Config.staleMs)

/-- `P.LEN[7:0]` or `T.LEN[7:0]`. -/
def lowByte (len : Half) : Byte := len.setWidth 8

/-- `zext_16(b)`. -/
def zext16 (b : Byte) : Half := b.setWidth 16

/-- The frame the parser holds (R28, R122). -/
def Parser.frame (p : Parser) : Frame :=
  { kind := p.alph, length := p.len, payload := p.buf.range 0 p.len.toNat }

/-- Emitting that frame would read an index past P.BUF (R59); log 8. -/
def Parser.readsPast (p : Parser) (b : Byte) : Bool :=
  decide (p.state = .wf4 ∧ b = ftrByte p.alph 3 ∧ p.len.toNat > Config.pbufCap)

/-- The echoed opcode: payload bytes 0 and 1 (R144). -/
def Transactor.echo (t : Transactor) : Half := le16 (t.buf.read 0) (t.buf.read 1)

/-- The payload bytes after the echoed opcode (R76). -/
def Transactor.rest (t : Transactor) : List Byte := t.buf.range 2 (t.len.toNat - 2)

end Sys2Proof.Machine
end

