-- ==== Sys2Proof/Machine/Flags.lean ====
section
/-! DEFINITION. The flags (R41) and the registers of unit C that the frames write together (R58, R168, R170). -/

namespace Sys2Proof.Machine

/-- `C.NEW <- 0` (R173). -/
def State.clearNew (s : State) : State := { s with C := { s.C with new := false } }

/-- `C.CFG_MODE <- v` (R150, R152). -/
def State.setCfgMode (s : State) (v : Bool) : State := { s with C := { s.C with cfgMode := v } }

/-- `C.CFG_MODE <- v` only when the exchange succeeded (R151). -/
def State.setCfgModeIfOk (s : State) (v : Bool) : State := if s.T.ok then s.setCfgMode v else s

/-- A new reading: the four writes of R168 in one action; the clock is read once (R179). -/
def State.newReading (s : State) (d : Word) : State :=
  { s with C := { s.C with mmBits := d, obsT := s.now, lastT := s.now, new := true } }

/-- `C.LAST_T <- Now()` (R170). -/
def State.refreshLast (s : State) : State := { s with C := { s.C with lastT := s.now } }

/-- Success: `T.OK <- 1; T.RESP <- payload; T.PHASE <- IDLE` (R145). T.OP, T.ARGS, T.TOUT and T.T0 (R31) and
the scan state T.POS, T.LEN, T.IDX and T.BUF (R34) keep their values, which the rules leave open: DESIGN CHOICE, unsafe, log 31. -/
def State.exchangeSucceeds (s : State) (payload : List Byte) : State :=
  { s with T := { s.T with ok := true, resp := payload, phase := .idle } }

/-- Failure: `raise T_TIMEOUT; T.OK <- 0; T.RESP <- []; T.PHASE <- IDLE` (R146). T.OP, T.ARGS, T.TOUT and T.T0 (R31)
and the scan state T.POS, T.LEN, T.IDX and T.BUF (R34) keep their values, which the rules leave open: DESIGN CHOICE, unsafe, log 31. -/
def State.exchangeFails (s : State) : State :=
  { s with T := { s.T with ok := false, resp := [], phase := .idle } }.raise .tTimeout

end Sys2Proof.Machine
end

