-- ==== Sys2Proof/Machine/Exchange.lean ====
section
/-! DEFINITION. The exchange primitive (41_transactor.md R130 to R149), one atomic action at a time, and CONFIG_ACK, the meaning of the
acknowledgement the scan reads. An operation that exchanges is carried on by the same definition until it returns: T.PHASE says
which action comes next (R21, R131). -/

namespace Sys2Proof.Machine

/-- CONFIG_ACK (R144, R145): when the scan has stored the last declared payload byte, an echo equal to T.OP ends the exchange with
success, any other restarts the scan and keeps the deadline (R148). Outside a scan nothing reads an acknowledgement (log 16). -/
def execConfigAck (echo : Half) (rest : List Byte) (s : State) : Host.Outcome State Fault Refusal :=
  match s.T.phase with
  | .scan =>
    if echo = s.T.op then .next (s.exchangeSucceeds (u16le echo ++ rest))
    else .next ({ s with T := { s.T with pos := .h0 } }.raise (.tOpcodeMismatch echo))
  | _ => .next s

/-- Exchange start (R132). No register of unit P or C is written. T.T0 (R31) and the scan state (R34) still hold what the last exchange
left, which the rules leave open: DESIGN CHOICE, unsafe, log 31. -/
def State.startExchange (s : State) (i : Instr) (op : Half) (args : List Byte) (tout : Millis) : State :=
  { s with T := { s.T with op := op, args := args, tout := tout, phase := .drain }, running := some i }

/-- One check of phase DRAIN (R133): a waiting byte is discarded; none waiting ends the drain. The check and what follows it are one
action (DEDUCED from R18, log 1). -/
def drainAction (s : State) : Host.Outcome State Fault Refusal :=
  if s.avail = 0 then .next { s with T := { s.T with phase := .send } }
  else match s.readByte with
    | .error f => .fault f
    | .ok (_, s1) => .next s1

/-- Scan start (R137). T.LEN, T.IDX and T.BUF still hold what the last exchange left, which R34 leaves open: DESIGN CHOICE, unsafe,
log 31. -/
def State.startScan (s : State) : State :=
  { s with T := { s.T with t0 := s.now, pos := .h0, phase := .scan } }

/-- Phase SEND and the scan start after it (R135, R137), one action (log 1). -/
def sendAction (s : State) : Host.Outcome State Fault Refusal :=
  .next (s.writeBytes (encodeRequest s.T.op s.T.args)).startScan

/-- Position H0 (R140): a byte other than FD leaves it there, with no event. -/
def scanStart (b : Byte) (s : State) : State :=
  { s with T := { s.T with pos := if b = hdrByte .config 0 then .h1 else .h0 } }

/-- Positions H1 to H3 (R140): header byte `k`, then position `good`. -/
def scanHeader (b : Byte) (k : Nat) (good : Pos) (s : State) : State :=
  if b = hdrByte .config k then { s with T := { s.T with pos := good } }
  else { s with T := { s.T with pos := .h0 } }.raise (.tHdrMismatch k b)

/-- Position L0 (R141). -/
def scanLenLow (b : Byte) (s : State) : State :=
  { s with T := { s.T with len := zext16 b, pos := .l1 } }

/-- Position L1 (R142). -/
def scanLenHigh (b : Byte) (s : State) : State :=
  let n := le16 (lowByte s.T.len) b
  if n.toNat < 2 ∨ n.toNat > Config.txBufCap then
    { s with T := { s.T with len := n, pos := .h0 } }.raise (.tLenInvalid n)
  else { s with T := { s.T with len := n, idx := 0, pos := .pl } }

/-- Store a payload byte (R143). -/
def scanStore (b : Byte) (s : State) : State :=
  { s with T := { s.T with buf := s.T.buf.write s.T.idx.toNat b, idx := s.T.idx + 1 } }

/-- Position PL (R143, R144): the last declared byte completes the acknowledgement. An index past T.BUF does not exist (log 8). -/
def scanPayload (b : Byte) (s : State) : Host.Outcome State Fault Refusal :=
  if s.T.idx.toNat ≥ Config.txBufCap then .fault .noSuchIndex
  else
    let t := scanStore b s
    if zext16 t.T.idx = t.T.len then execConfigAck t.T.echo t.T.rest t else .next t

/-- The byte of a scan pass, by T.POS (R140 to R144). -/
def scanByte (b : Byte) (s : State) : Host.Outcome State Fault Refusal :=
  match s.T.pos with
  | .h0 => .next (scanStart b s)
  | .h1 => .next (scanHeader b 1 .h2 s)
  | .h2 => .next (scanHeader b 2 .h3 s)
  | .h3 => .next (scanHeader b 3 .l0 s)
  | .l0 => .next (scanLenLow b s)
  | .l1 => .next (scanLenHigh b s)
  | .pl => scanPayload b s

/-- One scan pass (R138, R139): the timeout check comes first; then at most one byte is read. -/
def scanPass (s : State) : Host.Outcome State Fault Refusal :=
  if s.timedOut then .next s.exchangeFails
  else if s.avail = 0 then .next s
  else match s.readByte with
    | .error f => .fault f
    | .ok (b, s1) => scanByte b s1

/-- A pass that ended the exchange (T.PHASE is IDLE again, R131) makes the operation return by `ret`. That the write of C.CFG_MODE and
the return, which R150 and R152 put after EXCHANGE has returned, are one action with that pass is a DESIGN CHOICE (R58 lists the pass
alone), unsafe, log 32. -/
def returning (ret : State → State) : Host.Outcome State Fault Refusal → Host.Outcome State Fault Refusal
  | .next t => if t.T.phase = .idle then .next (ret t) else .next t
  | .fault f => .fault f
  | .refused r => .refused r

/-- The next action of the exchange of operation `i`, by T.PHASE (R149). With no exchange in flight: admission (R130, R192: the faults
first, then the refusal) and start (R132). -/
def exchangeOp (i : Instr) (op : Half) (args : List Byte) (tout : Millis) (ret : State → State) (s : State) :
    Host.Outcome State Fault Refusal :=
  if s.busyWithOther i then .fault .hostReentry
  else match s.T.phase with
    | .idle =>
      if args.length > Config.txArgMax then .next (s.refuse .argLength)
      else .next (s.startExchange i op args tout)
    | .drain => if s.running = some i then drainAction s else .fault .hostReentry
    | .send => if s.running = some i then sendAction s else .fault .hostReentry
    | .scan => if s.running = some i then returning ret (scanPass s) else .fault .hostReentry

/-- The return of the six operations: the boolean alone (D18, R49). -/
def State.returnOk (s : State) : State := s.respond (.bool s.T.ok)

/-- The return of the primitive: `(T.OK, T.RESP)` (R49, R145, R146). -/
def State.returnExchange (s : State) : State := s.respond (.exchange s.T.ok s.T.resp)

end Sys2Proof.Machine
end

