-- ==== Sys2Proof/Machine/Configure.lean ====
section
/-! DEFINITION. The six configuration operations and EXCHANGE (41_transactor.md R130, R150 to R157): each makes exactly one exchange
(R160) and checks no precondition (R159). -/

namespace Sys2Proof.Machine

/-- ENTER_CFG (R150): C.CFG_MODE is set on success only, in the pass that ends the exchange (log 32). -/
def execEnterCfg (timeout : Millis) (s : State) : Host.Outcome State Fault Refusal :=
  exchangeOp (.enterCfg timeout) opEnterCfg [0x01, 0x00] timeout (fun t => (t.setCfgModeIfOk true).returnOk) s

/-- EXIT_CFG (R152): C.CFG_MODE is cleared on success only, in the pass that ends the exchange (log 32). -/
def execExitCfg (timeout : Millis) (s : State) : Host.Outcome State Fault Refusal :=
  exchangeOp (.exitCfg timeout) opExitCfg [] timeout (fun t => (t.setCfgModeIfOk false).returnOk) s

/-- SET_PERIOD (R153): the clamped period is sent. -/
def execSetPeriod (period : Half) (timeout : Millis) (s : State) : Host.Outcome State Fault Refusal :=
  exchangeOp (.setPeriod period timeout) opSetPeriod (u16le (clampPeriod period)) timeout State.returnOk s

/-- SET_MIN_DIST (R155): no clamp. -/
def execSetMinDist (mm : Half) (timeout : Millis) (s : State) : Host.Outcome State Fault Refusal :=
  exchangeOp (.setMinDist mm timeout) opSetMinDist (u16le mm) timeout State.returnOk s

/-- SET_MAX_DIST (R156): no clamp. -/
def execSetMaxDist (mm : Half) (timeout : Millis) (s : State) : Host.Outcome State Fault Refusal :=
  exchangeOp (.setMaxDist mm timeout) opSetMaxDist (u16le mm) timeout State.returnOk s

/-- FACTORY_RESET (R157, R214): one exchange; it resets no register of the block. -/
def execFactoryReset (timeout : Millis) (s : State) : Host.Outcome State Fault Refusal :=
  exchangeOp (.factoryReset timeout) opFactoryReset [] timeout State.returnOk s

/-- EXCHANGE (R130, R149): any opcode, 0 to 248 argument bytes, and the whole acknowledgement payload as its result. -/
def execExchange (op : Half) (args : List Byte) (timeout : Millis) (s : State) : Host.Outcome State Fault Refusal :=
  exchangeOp (.exchange op args timeout) op args timeout State.returnExchange s

end Sys2Proof.Machine
end

