-- ==== Sys2Proof/Machine/ReadBack.lean ====
section
/-! DEFINITION. The read-back operations (41_transactor.md R161, R192): refused with REFUSE_READBACK. The mark REFUSED records it; no
register and no stream changes, nothing is returned, and the machine goes on (log 10). -/

namespace Sys2Proof.Machine

/-- READ_VERSION (R161). -/
def execReadVersion (s : State) : Host.Outcome State Fault Refusal := s.whenFree (s.refuse .readback)

/-- READ_PERIOD (R161). -/
def execReadPeriod (s : State) : Host.Outcome State Fault Refusal := s.whenFree (s.refuse .readback)

/-- READ_MIN_DIST (R161). -/
def execReadMinDist (s : State) : Host.Outcome State Fault Refusal := s.whenFree (s.refuse .readback)

/-- READ_MAX_DIST (R161). -/
def execReadMaxDist (s : State) : Host.Outcome State Fault Refusal := s.whenFree (s.refuse .readback)

end Sys2Proof.Machine
end

