-- ==== Sys2Proof/Machine/Float.lean ====
section
/-! DEFINITION. Binary32 division by a positive whole number, rounded to nearest, ties to even (R175, D23). The format and the rounding
are the spec's general knowledge (I-G3): PRESUMED, log 18. -/

namespace Sys2Proof.Machine

/-- The biased exponent field. -/
def f32Exp (x : Word) : Nat := (x.toNat / 2 ^ 23) % 2 ^ 8

/-- The fraction field. -/
def f32Frac (x : Word) : Nat := x.toNat % 2 ^ 23

/-- The sign bit, in place. -/
def f32Sign (x : Word) : Word := x &&& 0x80000000

def f32IsNan (x : Word) : Bool := decide (f32Exp x = 255 ∧ f32Frac x ≠ 0)

def f32IsInf (x : Word) : Bool := decide (f32Exp x = 255 ∧ f32Frac x = 0)

def f32IsZero (x : Word) : Bool := decide (f32Exp x = 0 ∧ f32Frac x = 0)

/-- The whole significand of a finite value. -/
def f32Mant (x : Word) : Nat := if f32Exp x = 0 then f32Frac x else 2 ^ 23 + f32Frac x

/-- The exponent field read as 1 for subnormals: a finite value is `f32Mant * 2 ^ (f32ScaleExp - 150)`. -/
def f32ScaleExp (x : Word) : Nat := if f32Exp x = 0 then 1 else f32Exp x

/-- `q / 2^sh` rounded to nearest, ties to even; `sticky` says that the exact value is a little above `q`. -/
def roundEven (q sh : Nat) (sticky : Bool) : Nat :=
  let kept := q / 2 ^ sh
  let low := q % 2 ^ sh
  let half := 2 ^ (sh - 1)
  if low > half ∨ (low = half ∧ (sticky ∨ kept % 2 = 1)) then kept + 1 else kept

/-- The magnitude bits of a finite nonzero value divided by `d`: the exact quotient of the significand, 40 bits further left, is
rounded to 24 bits or to the last subnormal place, whichever is coarser. -/
def f32QuotientBits (x : Word) (d : Nat) : Nat :=
  let n := f32Mant x * 2 ^ 40
  let q := n / d
  let sh := max (q.log2 - 23) (41 - f32ScaleExp x)
  (sh + f32ScaleExp x - 41) * 2 ^ 23 + roundEven q sh (decide (n % d ≠ 0))

/-- A NaN whose other bits are those of `free`: exponent all ones, fraction not zero. -/
def nanFrom (free : Word) : Word :=
  let y := free ||| 0x7F800000
  if f32Frac y = 0 then y ||| 1 else y

/-- `f32(x) / d` as binary32 bits (R175): NaN gives some NaN (log 17), an infinity and a zero give themselves. -/
def f32DivNat (x : Word) (d : Nat) : Word :=
  if f32IsNan x then nanFrom (Config.nanQuotient x)
  else if f32IsInf x then x
  else if f32IsZero x then x
  else f32Sign x ||| BitVec.ofNat 32 (f32QuotientBits x d)

end Sys2Proof.Machine
end

