-- ==== Sys2Proof/Machine/Frames.lean ====
section
/-! DEFINITION. The frames of the background path (42_frame_consumer.md R166 to R171): the meaning of each received-frame row, and
`Consume`. A frame acts in the action that emits it (R58, R166): it is on FRAME_OUT for that step and is consumed at once. -/

namespace Sys2Proof.Machine

/-- The report decoder by payload length (R168, R169): four bytes are a reading; any other length only raises an event. -/
def State.decodeReport (s : State) (payload : List Byte) : State :=
  match payload with
  | [b0, b1, b2, b3] => s.newReading (le32 b0 b1 b2 b3)
  | p => s.raise (.cReportBadLen (BitVec.ofNat 16 p.length))

/-- A frame of the given kind and payload. -/
def frameOf (a : Alphabet) (payload : List Byte) : Frame :=
  { kind := a, length := BitVec.ofNat 16 payload.length, payload := payload }

/-- REPORT_FRAME (R123, R167, R169). -/
def execReportFrame (payload : List Byte) (s : State) : Host.Outcome State Fault Refusal :=
  .next ((s.emit (frameOf .report payload)).decodeReport payload)

/-- DISTANCE_REPORT (R168): the reading, its time, the last-packet time and C.NEW change in one action. -/
def execDistanceReport (d : Word) (s : State) : Host.Outcome State Fault Refusal :=
  .next ((s.emit (frameOf .report (u32le d))).newReading d)

/-- CONFIG_FRAME (R170): only the last-packet time; the payload is not read. -/
def execConfigFrame (payload : List Byte) (s : State) : Host.Outcome State Fault Refusal :=
  .next ((s.emit (frameOf .config payload)).refreshLast)

/-- `Consume(fr)` (R166): the meaning of the frame's row (R92). -/
def consume (f : Frame) (s : State) : Host.Outcome State Fault Refusal :=
  match f.kind with
  | .config => execConfigFrame f.payload s
  | .report =>
    match f.payload with
    | [b0, b1, b2, b3] => execDistanceReport (le32 b0 b1 b2 b3) s
    | p => execReportFrame p s

end Sys2Proof.Machine
end

