-- ==== Sys2Proof/Machine/Parser.lean ====
section
/-! DEFINITION. The parser step (40_frame_parser.md): one definition for each state or kind of state, and the whole transition function
of R123. A step gives the new unit P, the event it raises, and the frame it emits. -/

namespace Sys2Proof.Machine

/-- State WH1 (R102 to R104). -/
def stepStart (p : Parser) (b : Byte) : Parser × Option Event × Option Frame :=
  match alphabetOf b with
  | some a => ({ p with alph := a, state := .wh2 }, none, none)
  | none => ({ p with state := .wh1 }, none, none)

/-- States WH2 to WH4: header byte `k`, then state `good` (R105 to R108). -/
def stepHeader (p : Parser) (b : Byte) (k : Nat) (good : PState) : Parser × Option Event × Option Frame :=
  if b = hdrByte p.alph k then ({ p with state := good }, none, none)
  else ({ p with state := .wh1 }, some (.pHdrMismatch k b), none)

/-- State WL1 (R110). -/
def stepLenLow (p : Parser) (b : Byte) : Parser × Option Event × Option Frame :=
  ({ p with len := zext16 b, state := .wl2 }, none, none)

/-- State WL2 (R111 to R114). -/
def stepLenHigh (p : Parser) (b : Byte) : Parser × Option Event × Option Frame :=
  let n := le16 (lowByte p.len) b
  if n.toNat > Config.maxLen then ({ p with len := n, state := .wh1 }, some (.pOversize n), none)
  else if n = 0 then ({ p with len := n, idx := 0, state := .wf1 }, none, none)
  else ({ p with len := n, idx := 0, state := .wp }, none, none)

/-- State WP (R115). -/
def stepPayload (p : Parser) (b : Byte) : Parser × Option Event × Option Frame :=
  let idx := p.idx + 1
  ({ p with buf := p.buf.write p.idx.toNat b, idx := idx, state := if zext16 idx = p.len then .wf1 else .wp }, none, none)

/-- States WF1 to WF3: footer byte `k`, then state `good` (R117 to R119, R121). -/
def stepFooter (p : Parser) (b : Byte) (k : Nat) (good : PState) : Parser × Option Event × Option Frame :=
  if b = ftrByte p.alph k then ({ p with state := good }, none, none)
  else ({ p with state := .wh1 }, some (.pFtrMismatch k b), none)

/-- State WF4: the last footer byte emits the frame (R120, R121). -/
def stepEmit (p : Parser) (b : Byte) : Parser × Option Event × Option Frame :=
  if b = ftrByte p.alph 3 then ({ p with state := .wh1 }, none, some p.frame)
  else ({ p with state := .wh1 }, some (.pFtrMismatch 3 b), none)

/-- `Step(b)` (R100, R123). -/
def parserStep (p : Parser) (b : Byte) : Parser × Option Event × Option Frame :=
  match p.state with
  | .wh1 => stepStart p b
  | .wh2 => stepHeader p b 1 .wh3
  | .wh3 => stepHeader p b 2 .wh4
  | .wh4 => stepHeader p b 3 .wl1
  | .wl1 => stepLenLow p b
  | .wl2 => stepLenHigh p b
  | .wp => stepPayload p b
  | .wf1 => stepFooter p b 0 .wf2
  | .wf2 => stepFooter p b 1 .wf3
  | .wf3 => stepFooter p b 2 .wf4
  | .wf4 => stepEmit p b

/-- Feed a byte string (R100): the unit after it and the frames emitted, in order. -/
def parserFeed : Parser → List Byte → Parser × List Frame
  | p, [] => (p, [])
  | p, b :: bs =>
    let r := parserStep p b
    let after := parserFeed r.1 bs
    (after.1, r.2.2.toList ++ after.2)

end Sys2Proof.Machine
end

