-- ==== Sys2Proof/Machine/Session.lean ====
section
/-! DEFINITION. The session surface (42_frame_consumer.md R165, R172 to R176): UPDATE, one pass of its loop at a time, and the four
queries, each one action (R58). -/

namespace Sys2Proof.Machine

/-- One byte through the parser and, in the same action, the frame it emits through the consumer (R58, R165, R166). -/
def feedByte (b : Byte) (s : State) : Host.Outcome State Fault Refusal :=
  if s.P.readsPast b then .fault .noSuchIndex
  else match parserStep s.P b with
    | (p, ev, none) => .next ({ s with P := p }.raiseAll ev)
    | (p, ev, some f) => consume f ({ s with P := p }.raiseAll ev)

/-- One pass of UPDATE's loop (R165): no byte waiting ends the operation; else one byte is read and parsed. -/
def updateAction (s : State) : Host.Outcome State Fault Refusal :=
  if s.avail = 0 then .next (s.respond .unit)
  else match s.readByte with
    | .error f => .fault f
    | .ok (b, s1) => feedByte b (s1.run .update)

/-- UPDATE (R165): requested during an exchange it is a breach (R44, R190); else the next pass of its loop. -/
def execUpdate (s : State) : Host.Outcome State Fault Refusal :=
  if s.T.phase ≠ .idle then .fault .hostInterleave
  else if s.busyWithOther .update then .fault .hostReentry
  else updateAction s

/-- HAS_NEW_DATA (R173): read and clear. -/
def execHasNewData (s : State) : Host.Outcome State Fault Refusal :=
  s.whenFree (s.clearNew.respond (.bool s.C.new))

/-- GET_MM (R174): a pure read. -/
def execGetMm (s : State) : Host.Outcome State Fault Refusal :=
  s.whenFree (s.respond (.f32 s.C.mmBits))

/-- GET_M (R175): a pure read, divided by 1000. -/
def execGetM (s : State) : Host.Outcome State Fault Refusal :=
  s.whenFree (s.respond (.f32 (f32DivNat s.C.mmBits 1000)))

/-- IS_CONNECTED (R176): derived from the clock at query time. -/
def execIsConnected (s : State) : Host.Outcome State Fault Refusal :=
  s.whenFree (s.respond (.bool s.connected))

end Sys2Proof.Machine
end

