-- ==== Sys2Proof/Machine/Dispatch.lean ====
section
/-! DEFINITION. One arm for each instruction: a direct call of its meaning. -/

namespace Sys2Proof.Machine

def exec (i : Instr) (s : State) : Host.Outcome State Fault Refusal :=
  match i with
  | .enterCfg timeout => Sys2Proof.Machine.execEnterCfg timeout s
  | .exitCfg timeout => Sys2Proof.Machine.execExitCfg timeout s
  | .setPeriod period timeout => Sys2Proof.Machine.execSetPeriod period timeout s
  | .setMinDist mm timeout => Sys2Proof.Machine.execSetMinDist mm timeout s
  | .setMaxDist mm timeout => Sys2Proof.Machine.execSetMaxDist mm timeout s
  | .factoryReset timeout => Sys2Proof.Machine.execFactoryReset timeout s
  | .exchange op args timeout => Sys2Proof.Machine.execExchange op args timeout s
  | .readVersion => Sys2Proof.Machine.execReadVersion s
  | .readPeriod => Sys2Proof.Machine.execReadPeriod s
  | .readMinDist => Sys2Proof.Machine.execReadMinDist s
  | .readMaxDist => Sys2Proof.Machine.execReadMaxDist s
  | .update => Sys2Proof.Machine.execUpdate s
  | .hasNewData => Sys2Proof.Machine.execHasNewData s
  | .getMm => Sys2Proof.Machine.execGetMm s
  | .getM => Sys2Proof.Machine.execGetM s
  | .isConnected => Sys2Proof.Machine.execIsConnected s
  | .reportFrame payload => Sys2Proof.Machine.execReportFrame payload s
  | .distanceReport d => Sys2Proof.Machine.execDistanceReport d s
  | .configFrame payload => Sys2Proof.Machine.execConfigFrame payload s
  | .configAck echo rest => Sys2Proof.Machine.execConfigAck echo rest s

end Sys2Proof.Machine
end

