-- ==== Sys2Proof/Machine/Schedule.lean ====
section
/-! DEFINITION. Who moves next (R58, R62, R204, R227): the acts of the host, the environment, the clock and the block's own turn; and how an
instruction is placed so that the next step runs it (log 22). -/

namespace Sys2Proof.Machine

/-- The host requests `i` (R49): the response port is cleared, and a request while an operation runs is a breach (R190). The request and
the first action of what it requests are one step (DEDUCED, log 1 and 30). A received frame is no request of the host port: nothing
happens (log 21). -/
def hostRequest (i : Instr) (s : State) : Host.Outcome State Fault Refusal :=
  if i.isHostOp then
    match s.requestFault i with
    | some f => .fault f
    | none => exec i s.clearResponse
  else .next s

/-- The block's turn: the next action of the operation in flight, or nothing when it is idle (R211, log 25). -/
def blockTurn (s : State) : Host.Outcome State Fault Refusal :=
  match s.running with
  | some i => exec i s
  | none => .next s

/-- One act of the schedule. -/
def act (e : Stimulus) (s : State) : Host.Outcome State Fault Refusal :=
  match e with
  | .rx bytes => .next (s.appendRx bytes)
  | .clk t => .next (s.setClock t)
  | .tx n => .next (s.takeTx n)
  | .call i => hostRequest i s
  | .block => blockTurn s
  | .reset => .next s.resetBlock

/-- The next act of the schedule: the agenda's first; once the agenda is used up, the endless acts follow (R227, log 2). -/
def State.nextAct (s : State) : Stimulus :=
  match s.agenda, s.endless with
  | e :: _, _ => e
  | [], .cycle e _ => e
  | [], .free n => Config.freeAct n

/-- The next act is taken off the schedule: a cycle begins again when its last act is taken. -/
def State.takeAct (s : State) : State :=
  match s.agenda, s.endless with
  | _ :: es, _ => { s with agenda := es }
  | [], .cycle _ es => { s with agenda := es }
  | [], .free n => { s with endless := .free (n + 1) }

/-- The next act of the schedule, on a cleared FRAME_OUT. -/
def stepUnfaulted (s : State) : Host.Outcome State Fault Refusal := act s.nextAct s.takeAct.clearFrameOut

/-- UPDATE is in flight and its next byte completes the frame. -/
def State.placeFrame (s : State) (a : Alphabet) (payload : List Byte) : State :=
  { s with
    P := { state := .wf4, alph := a, len := BitVec.ofNat 16 payload.length, idx := BitVec.ofNat 8 payload.length,
           buf := Memory.ofBytes 0 payload }
    T := { s.T with phase := .idle }
    rxq := ftrByte a 3 :: s.rxq
    running := some .update
    fault := none
    agenda := .block :: s.agenda }

/-- An exchange of opcode `echo` is in flight and its next byte completes the acknowledgement. -/
def State.placeAck (s : State) (echo : Half) (rest : List Byte) : State :=
  let payload := u16le echo ++ rest
  { s with
    T := { s.T with phase := .scan, pos := .pl, op := echo, args := [], tout := Config.defaultTimeout, t0 := s.now,
                    len := BitVec.ofNat 16 payload.length, idx := BitVec.ofNat 8 (payload.length - 1),
                    buf := Memory.ofBytes 0 payload.dropLast }
    rxq := payload.getLastD 0 :: s.rxq
    running := some (.exchange echo [] Config.defaultTimeout)
    fault := none
    agenda := .block :: s.agenda }

/-- The host port is free and the next act requests `i`. -/
def State.placeCall (s : State) (i : Instr) : State :=
  { s with T := { s.T with phase := .idle }, running := none, fault := none, agenda := .call i :: s.agenda }

/-- The state in which the next step runs `i`. -/
def State.place (s : State) (i : Instr) : State :=
  match i with
  | .reportFrame p => s.placeFrame .report p
  | .distanceReport d => s.placeFrame .report (u32le d)
  | .configFrame p => s.placeFrame .config p
  | .configAck echo rest => s.placeAck echo rest
  | .enterCfg timeout => s.placeCall (.enterCfg timeout)
  | .exitCfg timeout => s.placeCall (.exitCfg timeout)
  | .setPeriod period timeout => s.placeCall (.setPeriod period timeout)
  | .setMinDist mm timeout => s.placeCall (.setMinDist mm timeout)
  | .setMaxDist mm timeout => s.placeCall (.setMaxDist mm timeout)
  | .factoryReset timeout => s.placeCall (.factoryReset timeout)
  | .exchange op args timeout => s.placeCall (.exchange op args timeout)
  | .readVersion => s.placeCall .readVersion
  | .readPeriod => s.placeCall .readPeriod
  | .readMinDist => s.placeCall .readMinDist
  | .readMaxDist => s.placeCall .readMaxDist
  | .update => s.placeCall .update
  | .hasNewData => s.placeCall .hasNewData
  | .getMm => s.placeCall .getMm
  | .getM => s.placeCall .getM
  | .isConnected => s.placeCall .isConnected

/-- Place the instruction a table word decodes to; a word the decoder refuses places nothing. -/
def State.placeWord (s : State) (nbits w : Nat) : State :=
  match decodeTableWord nbits w with
  | some i => s.place i
  | none => s

/-- A run's record: a step's next state; a fault sets the mark FAULT, which no later step clears (R42, R191). R191 leaves the registers
after a fault unspecified; that the record keeps each at its value before the faulting step is a DESIGN CHOICE, unsafe, log 9. -/
def State.record (s : State) : Host.Outcome State Fault Refusal → State
  | .next t => t
  | .fault r => s.markFault r
  | .refused _ => s

end Sys2Proof.Machine
end

