-- ==== Sys2Proof/Machine/Step.lean ====
section
/-! DEFINITION. One step: one atomic action of the block or one act of an outside agent (D1, R58). -/

namespace Sys2Proof.Machine

/-- A faulted run does not go on (R191); else the next act of the schedule. -/
def step (s : State) : Host.Outcome State Fault Refusal :=
  match s.fault with
  | some r => .fault r
  | none => stepUnfaulted s

/-- The run with its marks: the state after a step, the mark FAULT recorded when the step faults (R42); what the registers of such a
record hold is the model's choice (log 9). -/
def advance (s : State) : State := s.record (step s)

/-- `s` with the instruction of a table word placed so that the next step runs it (log 22). -/
def State.withFetchWord (s : State) (nbits w : Nat) : State := s.placeWord nbits w

end Sys2Proof.Machine
end

