-- ==== Sys2Proof/Safety.lean ====
section
/-! DEFINITION. What claims are stated in: the invariants of the units and of the whole machine, and the value of a binary32. -/

namespace Sys2Proof.Machine

/-- A buffer in canonical form that lists no index at or past `cap`. -/
abbrev Memory.Within (m : Memory) (cap : Nat) : Prop := m.wf = true ∧ ∀ c ∈ m, c.1 < cap

/-- Rule R27, with the bounds of R24, R25 and R26: P.BUF is written at 0 to 249 only (R129). -/
abbrev Parser.Inv (p : Parser) : Prop :=
  (p.state = .wl2 → p.len.toNat < 256) ∧
  (p.state = .wp → 1 ≤ p.len.toNat ∧ p.len.toNat ≤ Config.maxLen ∧ p.idx.toNat < p.len.toNat) ∧
  (p.state = .wf1 ∨ p.state = .wf2 ∨ p.state = .wf3 ∨ p.state = .wf4 →
    p.len.toNat ≤ Config.maxLen ∧ p.idx.toNat = p.len.toNat) ∧
  p.idx.toNat ≤ Config.maxLen ∧
  p.buf.Within Config.maxLen

/-- The registers of unit T within the bounds of R31 to R33 and R141 to R145. -/
abbrev Transactor.Inv (t : Transactor) : Prop :=
  (t.phase = .scan → t.pos = .l1 → t.len.toNat < 256) ∧
  (t.phase = .scan → t.pos = .pl → 2 ≤ t.len.toNat ∧ t.len.toNat ≤ Config.txBufCap ∧ t.idx.toNat < t.len.toNat) ∧
  t.idx.toNat ≤ Config.txBufCap ∧
  t.buf.Within Config.txBufCap ∧
  t.args.length ≤ Config.txArgMax ∧
  (t.ok = true → 2 ≤ t.resp.length ∧ t.resp.length ≤ Config.txBufCap) ∧
  (t.ok = false → t.resp = [])

/-- The host port agrees with T.PHASE (R29, R49): nothing runs and no exchange is in flight; or UPDATE runs and none is; or an
exchange is in flight and the operation that makes it runs. -/
abbrev State.PortInv (s : State) : Prop :=
  (s.running = none ∧ s.T.phase = .idle) ∨
  (s.running = some .update ∧ s.T.phase = .idle) ∨
  (s.running.bind Instr.request = some (s.T.op, s.T.args, s.T.tout) ∧ s.T.phase ≠ .idle)

/-- The invariant of the machine. -/
abbrev State.Inv (s : State) : Prop :=
  s.P.Inv ∧ s.T.Inv ∧ s.PortInv ∧ s.frameOut.all (fun f => decide f.WellFormed) = true

/-- No operation runs and no exchange is in flight: the host port accepts any operation (R211). -/
abbrev State.Free (s : State) : Prop := s.running = none ∧ s.T.phase = .idle

/-- The operation `i` runs and its exchange is in the given phase. -/
abbrev State.InPhase (s : State) (i : Instr) (ph : Phase) : Prop := s.running = some i ∧ s.T.phase = ph

/-- What the operation `i` returns from its exchange (R49, D18): the primitive its pair, the others the boolean. -/
def responseOf (i : Instr) (ok : Bool) (resp : List Byte) : Response :=
  match i with
  | .exchange _ _ _ => .exchange ok resp
  | _ => .bool ok

/-- C.CFG_MODE after operation `i` succeeds (R150 to R152). -/
def cfgModeAfter (i : Instr) (before : Bool) : Bool :=
  match i with
  | .enterCfg _ => true
  | .exitCfg _ => false
  | _ => before

/-- Operation `i` returns from its exchange: the host port is free, the response is there, and C.CFG_MODE follows a success
(R49, R150 to R157). -/
def State.returned (s : State) (i : Instr) : State :=
  { s with C := { s.C with cfgMode := if s.T.ok then cfgModeAfter i s.C.cfgMode else s.C.cfgMode }, running := none,
           response := some (responseOf i s.T.ok s.T.resp) }

/-- An outcome without the event trace, which no rule reads (R185). -/
def withoutTrace : Host.Outcome State Fault Refusal → Host.Outcome State Fault Refusal
  | .next t => .next { t with trace := [] }
  | .fault f => .fault f
  | .refused r => .refused r

/-- What the consumer makes of one frame (R166 to R170), on unit C alone, at clock reading `now`. -/
def consumerAfter (c : Consumer) (now : Millis) (f : Frame) : Consumer :=
  match f.kind with
  | .config => { c with lastT := now }
  | .report =>
    match f.payload with
    | [b0, b1, b2, b3] => { c with mmBits := le32 b0 b1 b2 b3, obsT := now, lastT := now, new := true }
    | _ => c

/-- A finite binary32 (I-G3). -/
abbrev f32IsFinite (x : Word) : Prop := f32Exp x ≠ 255

/-- The value of a finite binary32 (I-G3). -/
def f32Value (x : Word) : ℚ :=
  (if x.msb then -1 else 1) * (f32Mant x : ℚ) * (2 : ℚ) ^ ((f32ScaleExp x : ℤ) - 150)

end Sys2Proof.Machine
end

