-- ==== Sys2Proof/Certificates/Slice0/Obligations.lean ====
section
/-! DEFINITION. The statements for the provers, from the numbered rules of spec/. A statement about a next state gives the whole state,
so it says what changes and that nothing else does. -/

open Sys2Proof Sys2Proof.Machine

/-! ## One step -/

/-- A step in which the host requests an operation runs that operation (R49): around it, the act leaves the schedule (log 2),
FRAME_OUT is cleared (R28; log 13) and the response port is cleared (the model's choice, log 12). That the request and the first action
of what it requests (an exchange's start or refusal, UPDATE's first pass) are one step is the model's reading, log 1 and 30. -/
def Obligations.RequestedOperationRunsInOneStep : Prop :=
  ∀ (s : State) (i : Instr), s.fault = none → s.nextAct = .call i → i.isHostOp = true → s.running = none →
    step s = exec i { s.takeAct with frameOut := none, response := none }

/-- A turn of the block runs the next action of the operation in flight (R58, decision D1; the schedule is the model's, log 2;
what it takes as one action beyond R58's list is log 1, 30 and 32). -/
def Obligations.OperationInFlightRunsInOneStep : Prop :=
  ∀ (s : State) (i : Instr), s.fault = none → s.running = some i → s.nextAct = .block →
    step s = exec i { s.takeAct with frameOut := none }

/-- The step that reads a frame's last footer byte runs the row the frame is (R166; one action by R58, decision D1). -/
def Obligations.ReceivedFrameRunsInTheStepOfItsLastByte : Prop :=
  ∀ (s : State) (b : Byte) (bs : List Byte), s.fault = none → s.running = some .update →
    s.T.phase = .idle → s.P.Inv → s.P.state = .wf4 → s.rxq = b :: bs → b = ftrByte s.P.alph 3 → s.nextAct = .block →
    step s = exec (Instr.ofFrame s.P.frame) { s.takeAct with P := { s.P with state := .wh1 }, rxq := bs, frameOut := none }

/-- The pass that stores an acknowledgement's last payload byte runs CONFIG_ACK, and the operation returns if that ended the
exchange (R144, R149; one action by R58, decision D1). That the return, and the
write of C.CFG_MODE, are one action with that pass is the model's choice, unsafe, log 32. -/
def Obligations.AcknowledgementRunsInThePassOfItsLastByte : Prop :=
  ∀ (s : State) (i : Instr) (op : Half) (args : List Byte) (tout : Millis) (b : Byte) (bs : List Byte),
    i.request = some (op, args, tout) → s.InPhase i .scan → s.timedOut = false → s.T.pos = .pl → s.T.Inv →
    s.rxq = b :: bs → zext16 (s.T.idx + 1) = s.T.len →
    let t := { s with rxq := bs, T := { s.T with buf := s.T.buf.write s.T.idx.toNat b, idx := s.T.idx + 1 } }
    exec i s =
      match exec (.configAck t.T.echo t.T.rest) t with
      | .next u => .next (if u.T.phase = .idle then u.returned i else u)
      | .fault f => .fault f
      | .refused r => .refused r

/-- What the outside agents' acts do (R46, R47, R204), each in a step in which the act leaves the schedule. The model's own choices
here: the schedule, an agenda and then endless acts, a cycle or free ones (log 2); that FRAME_OUT is cleared whoever acts (log 13);
that the environment takes bytes off the front of TXQ, never more than there are (log 26); that an idle turn does nothing (beside R211,
log 25), nor a call that names no host operation (log 21). -/
def Obligations.OutsideActsChangeOnlyTheirPort : Prop :=
  ∀ s : State,
    (∀ e es, s.agenda = e :: es → s.nextAct = e ∧ s.takeAct = { s with agenda := es }) ∧
    (∀ e es, s.agenda = [] → s.endless = .cycle e es → s.nextAct = e ∧ s.takeAct = { s with agenda := es }) ∧
    (∀ n, s.agenda = [] → s.endless = .free n → s.nextAct = Config.freeAct n ∧ s.takeAct = { s with endless := .free (n + 1) }) ∧
    (s.fault = none →
      (∀ bytes, s.nextAct = .rx bytes → step s = .next { s.takeAct with frameOut := none, rxq := s.rxq ++ bytes }) ∧
      (∀ t, s.nextAct = .clk t → step s = .next { s.takeAct with frameOut := none, now := t }) ∧
      (∀ n, s.nextAct = .tx n → step s = .next { s.takeAct with frameOut := none, txq := s.txq.drop n }) ∧
      (s.nextAct = .block → s.running = none → step s = .next { s.takeAct with frameOut := none }) ∧
      (∀ i, s.nextAct = .call i → i.isHostOp = false → step s = .next { s.takeAct with frameOut := none }))

/-! ## The exchange: admission, drain, send, scan -/

/-- R132 (decision D14), for each of the seven operations that exchange: an admitted request starts its exchange and writes no register
of unit P or C; that the request and the start are one action is the model's reading, log 1.
That T.T0 and the scan state hold what the last exchange left is the model's choice, unsafe, log 31. -/
def Obligations.AdmittedExchangeStarts : Prop :=
  ∀ (i : Instr) (op : Half) (args : List Byte) (tout : Millis) (s : State),
    i.request = some (op, args, tout) → s.Free → args.length ≤ Config.txArgMax →
    exec i s = .next { s with T := { s.T with op := op, args := args, tout := tout, phase := .drain }, running := some i }

/-- R130, R192 (decision D34): an EXCHANGE with more than 248 argument bytes only sets the mark REFUSED (once); nothing is sent. That
the refusal is a next state, returns nothing and lets the machine go on is the model's reading, unsafe, log 10. -/
def Obligations.LongArgumentsAreRefused : Prop :=
  ∀ (op : Half) (args : List Byte) (tout : Millis) (s : State), s.Free → args.length > Config.txArgMax →
    exec (.exchange op args tout) s = .next { s with refused := s.refused.or (some .argLength) }

/-- R133 (decision D12): a waiting byte is discarded, and the first check that finds none waiting ends the drain.
That T.T0 and the scan state hold what the last exchange left is the model's choice, unsafe, log 31. That a check
and what follows it are one action is the model's reading, log 1. -/
def Obligations.DrainDiscardsUntilEmpty : Prop :=
  ∀ (i : Instr) (s : State), i.request.isSome = true → s.InPhase i .drain →
    (∀ b bs, s.rxq = b :: bs → exec i s = .next { s with rxq := bs }) ∧
    (s.rxq = [] → exec i s = .next { s with T := { s.T with phase := .send } })

/-- R134, R135, R137 (decisions D10, D13): the request is written once, whole, and the scan starts at position H0 with the clock of that
moment; that both are one action is the model's reading, log 1.
That T.LEN, T.IDX and T.BUF hold what the last exchange left is the model's choice, unsafe, log 31. -/
def Obligations.SendWritesTheRequestOnce : Prop :=
  ∀ (i : Instr) (s : State), i.request.isSome = true → s.InPhase i .send →
    exec i s = .next { s with
      txq := s.txq ++ ([0xFD, 0xFC, 0xFB, 0xFA] ++ u16le (BitVec.ofNat 16 (2 + s.T.args.length)) ++ u16le s.T.op ++
        s.T.args ++ [0x04, 0x03, 0x02, 0x01]),
      T := { s.T with t0 := s.now, pos := .h0, phase := .scan } }

/-- R139, R146 (decisions D10, D31): a pass at or past the deadline fails the exchange before any byte is read, whatever is waiting.
That T.OP, T.ARGS, T.TOUT, T.T0 and the scan state keep their values is the model's choice, unsafe, log 31. That the return is one
action with that pass is the model's choice, unsafe, log 32. -/
def Obligations.DeadlineFailsTheExchange : Prop :=
  ∀ (i : Instr) (s : State), i.request.isSome = true → s.InPhase i .scan → (s.now - s.T.t0).toNat ≥ s.T.tout.toNat →
    exec i s = .next { s with
      T := { s.T with ok := false, resp := [], phase := .idle }, trace := s.trace ++ [.tTimeout], running := none,
      response := some (responseOf i false []) }

/-- R138 (decision D10): before the deadline, a pass that finds no byte waiting changes nothing. -/
def Obligations.ScanWaitsForAByte : Prop :=
  ∀ (i : Instr) (s : State), i.request.isSome = true → s.InPhase i .scan → (s.now - s.T.t0).toNat < s.T.tout.toNat →
    s.rxq = [] → exec i s = .next s

/-- R140: the config header is matched byte by byte; a mismatch drops the byte and restarts at position zero. -/
def Obligations.ScanMatchesTheConfigHeader : Prop :=
  ∀ (i : Instr) (s : State) (b : Byte) (bs : List Byte), i.request.isSome = true → s.InPhase i .scan →
    (s.now - s.T.t0).toNat < s.T.tout.toNat → s.rxq = b :: bs →
    let move := fun (q : Pos) => { s with rxq := bs, T := { s.T with pos := q } }
    let lost := fun (k : Nat) => { move .h0 with trace := s.trace ++ [.tHdrMismatch k b] }
    (s.T.pos = .h0 → exec i s = .next (move (if b = 0xFD then .h1 else .h0))) ∧
    (s.T.pos = .h1 → exec i s = .next (if b = 0xFC then move .h2 else lost 1)) ∧
    (s.T.pos = .h2 → exec i s = .next (if b = 0xFB then move .h3 else lost 2)) ∧
    (s.T.pos = .h3 → exec i s = .next (if b = 0xFA then move .l0 else lost 3))

/-- R141, R142 (decisions D8, D9): the length is read low byte first and must be 2 to 250, else the scan restarts. -/
def Obligations.ScanChecksTheLength : Prop :=
  ∀ (i : Instr) (s : State) (b : Byte) (bs : List Byte), i.request.isSome = true → s.InPhase i .scan →
    (s.now - s.T.t0).toNat < s.T.tout.toNat → s.rxq = b :: bs →
    (s.T.pos = .l0 → exec i s = .next { s with rxq := bs, T := { s.T with len := b.setWidth 16, pos := .l1 } }) ∧
    (s.T.pos = .l1 → let n := le16 (s.T.len.setWidth 8) b
      exec i s = .next (if n.toNat < 2 ∨ n.toNat > 250 then
          { s with rxq := bs, T := { s.T with len := n, pos := .h0 }, trace := s.trace ++ [.tLenInvalid n] }
        else { s with rxq := bs, T := { s.T with len := n, idx := 0, pos := .pl } }))

/-- R143: a payload byte that is not the last is stored at T.IDX, every other byte of T.BUF reads as before, and T.IDX advances. -/
def Obligations.ScanStoresAPayloadByte : Prop :=
  ∀ (i : Instr) (s : State) (b : Byte) (bs : List Byte), i.request.isSome = true → s.InPhase i .scan →
    (s.now - s.T.t0).toNat < s.T.tout.toNat → s.rxq = b :: bs → s.T.pos = .pl → s.T.Inv →
    s.T.idx.toNat + 1 < s.T.len.toNat →
    ∃ m : Memory, exec i s = .next { s with rxq := bs, T := { s.T with buf := m, idx := s.T.idx + 1 } } ∧ m.wf = true ∧
      ∀ a, m.read a = if a = s.T.idx.toNat then b else s.T.buf.read a

/-- R144, R148 (decision D10): an acknowledgement that echoes another opcode restarts the scan; the deadline stays. -/
def Obligations.OtherOpcodeRestartsTheScan : Prop :=
  ∀ (i : Instr) (s : State) (b : Byte) (bs : List Byte), i.request.isSome = true → s.InPhase i .scan →
    (s.now - s.T.t0).toNat < s.T.tout.toNat → s.rxq = b :: bs → s.T.pos = .pl → s.T.Inv →
    s.T.idx.toNat + 1 = s.T.len.toNat →
    let payload := s.T.buf.range 0 s.T.idx.toNat ++ [b]
    let echo := le16 (payload.getD 0 0) (payload.getD 1 0)
    echo ≠ s.T.op →
    exec i s = .next { s with
      rxq := bs,
      T := { s.T with buf := s.T.buf.write s.T.idx.toNat b, idx := s.T.idx + 1, pos := .h0 },
      trace := s.trace ++ [.tOpcodeMismatch echo] }

/-- R145, R150 to R157: an acknowledgement that echoes the opcode ends the exchange at its last payload byte; the whole payload is
T.RESP; ENTER_CFG sets and EXIT_CFG clears C.CFG_MODE, and no other operation writes it.
That T.OP, T.ARGS, T.TOUT, T.T0 and the scan state keep their values is the model's choice, unsafe, log 31. That the return, and the
write of C.CFG_MODE, are one action with that pass is the model's choice, unsafe, log 32. -/
def Obligations.MatchingOpcodeEndsTheExchange : Prop :=
  ∀ (i : Instr) (s : State) (b : Byte) (bs : List Byte), i.request.isSome = true → s.InPhase i .scan →
    (s.now - s.T.t0).toNat < s.T.tout.toNat → s.rxq = b :: bs → s.T.pos = .pl → s.T.Inv →
    s.T.idx.toNat + 1 = s.T.len.toNat →
    let payload := s.T.buf.range 0 s.T.idx.toNat ++ [b]
    le16 (payload.getD 0 0) (payload.getD 1 0) = s.T.op →
    exec i s = .next { s with
      rxq := bs,
      T := { s.T with buf := s.T.buf.write s.T.idx.toNat b, idx := s.T.idx + 1, ok := true, resp := payload, phase := .idle },
      C := { s.C with cfgMode := cfgModeAfter i s.C.cfgMode },
      running := none,
      response := some (responseOf i true payload) }

/-- An acknowledgement of the requested opcode that arrives after the request makes each of the seven operations succeed: the backlog
is drained, one request is written, the acknowledgement's payload is T.RESP, the bytes after it (its footer first) stay in RXQ,
unit P is untouched and only C.CFG_MODE of unit C may change (R131, R145, R147, R150 to R157, R160, R162; decisions D12 to D14). The
schedule is the model's (log 2), the exact number of steps counts the request and its start, and the write and the scan start, as one
step each (log 1), and what the response port holds afterwards is the model's form of the port (log 12). That the write of
C.CFG_MODE and the return come in the last pass is the model's choice, unsafe, log 32. -/
def Obligations.ExchangeSucceedsOnMatchingAcknowledgement : Prop :=
  ∀ (s : State) (i : Instr) (op : Half) (args : List Byte) (tout : Millis) (rest tail : List Byte),
    i.request = some (op, args, tout) → s.Inv → s.fault = none → s.Free → args.length ≤ Config.txArgMax →
    2 + rest.length ≤ Config.txBufCap → tout ≠ 0 →
    s.agenda = .call i :: (List.replicate (s.rxq.length + 2) .block ++ .rx (encodeAck op rest ++ tail) ::
      List.replicate (encodeAck op rest).length .block) →
    ∃ t, core.run (s.rxq.length + 4 + (encodeAck op rest).length) s = .next t ∧
      t.txq = s.txq ++ encode i ∧ t.rxq = tail ∧ t.P = s.P ∧ t.C = { s.C with cfgMode := cfgModeAfter i s.C.cfgMode } ∧
      t.Free ∧ t.T.ok = true ∧ t.T.resp = u16le op ++ rest ∧ t.response = some (responseOf i true (u16le op ++ rest)) ∧
      t.trace = s.trace ∧ t.agenda = [] ∧ t.endless = s.endless

/-- With no answer the seven operations wait as long as less than the timeout has passed, however often they look, and fail at the
first pass at which the timeout has passed; the request has been sent, and unit C is unchanged (R136, R139, R146, R151, R164; decision
D10). The schedule is the model's (log 2), the step counts count the request and its start, and the write and the scan start, as one step
each (log 1), and that the response port holds nothing during the operation is the model's choice, unsafe, log 12. That the return comes in
the failing pass is the model's choice, unsafe, log 32. -/
def Obligations.UnansweredExchangeFailsAtItsDeadline : Prop :=
  ∀ (s : State) (i : Instr) (op : Half) (args : List Byte) (tout d : Millis) (k : Nat),
    i.request = some (op, args, tout) → s.fault = none → s.Free → args.length ≤ Config.txArgMax → d.toNat < tout.toNat →
    s.agenda = .call i :: (List.replicate (s.rxq.length + 2) .block ++ .clk (s.now + d) :: List.replicate k .block ++
      [.clk (s.now + tout), .block]) →
    (∃ t, core.run (s.rxq.length + 4 + k) s = .next t ∧ t.InPhase i .scan ∧ t.response = none ∧ t.txq = s.txq ++ encode i) ∧
    (∃ t, core.run (s.rxq.length + 4 + k + 2) s = .next t ∧ t.Free ∧ t.response = some (responseOf i false []) ∧
      t.T.ok = false ∧ t.T.resp = [] ∧ t.txq = s.txq ++ encode i ∧ t.rxq = [] ∧ t.P = s.P ∧ t.C = s.C ∧
      t.trace = s.trace ++ [.tTimeout])

/-! ## Read-backs, queries, frames -/

/-- R161, R192 (decision D17): the four read-backs set the mark REFUSED (once) and change nothing else. That the refusal is a next state
from which the machine goes on is the model's reading, unsafe, log 10. -/
def Obligations.ReadBacksOnlyMarkRefused : Prop :=
  ∀ (i : Instr) (s : State), i = .readVersion ∨ i = .readPeriod ∨ i = .readMinDist ∨ i = .readMaxDist → s.running = none →
    exec i s = .next { s with refused := s.refused.or (some .readback) }

/-- R173: HAS_NEW_DATA returns C.NEW and clears it. -/
def Obligations.HasNewDataReadsAndClears : Prop :=
  ∀ s : State, s.running = none →
    exec .hasNewData s = .next { s with C := { s.C with new := false }, response := some (.bool s.C.new) }

/-- R174: GET_MM returns the last reading's bits and writes no register. -/
def Obligations.GetMmReturnsTheReading : Prop :=
  ∀ s : State, s.running = none → exec .getMm s = .next { s with response := some (.f32 s.C.mmBits) }

/-- R175: GET_M returns the reading divided by 1000 and writes no register: infinities and zeros are
themselves, a NaN is some NaN (the spec's general knowledge I-G3, log 17 and 18). -/
def Obligations.GetMReturnsTheReadingInMetres : Prop :=
  ∀ s : State, s.running = none → ∃ q, exec .getM s = .next { s with response := some (.f32 q) } ∧
    q = f32DivNat s.C.mmBits 1000 ∧
    (f32IsNan s.C.mmBits = true → f32IsNan q = true) ∧
    (f32IsInf s.C.mmBits = true → q = s.C.mmBits) ∧
    (f32IsZero s.C.mmBits = true → q = s.C.mmBits)

/-- R175 (decision D23): for a finite reading the quotient is finite, has the reading's sign, no finite binary32 is nearer to the reading
divided by 1000, and of two equally near the one with the even significand is taken. Rests on I-G3 (log 18). -/
def Obligations.MetresAreTheNearestBinary32 : Prop :=
  ∀ x : Word, f32IsFinite x →
    let q := f32DivNat x 1000
    f32IsFinite q ∧ q.msb = x.msb ∧
    ∀ y : Word, f32IsFinite y →
      |f32Value q - f32Value x / 1000| ≤ |f32Value y - f32Value x / 1000| ∧
      (|f32Value q - f32Value x / 1000| = |f32Value y - f32Value x / 1000| → f32Value y ≠ f32Value q → q.toNat % 2 = 0)

/-- R176 (decision D3): IS_CONNECTED is the staleness test at query time. -/
def Obligations.IsConnectedIsTheStalenessTest : Prop :=
  ∀ s : State, s.running = none →
    exec .isConnected s = .next { s with response := some (.bool (decide ((s.now - s.C.lastT).toNat < 3000))) }

/-- R178 (decision D3): `d` ms after a refresh the block is connected exactly while `d < 3000`, the clock wrapping or not. -/
def Obligations.ConnectionLastsThreeSeconds : Prop :=
  ∀ (s : State) (d : Millis), s.running = none → s.now = s.C.lastT + d →
    exec .isConnected s = .next { s with response := some (.bool (decide (d.toNat < 3000))) }

/-- R168 (both timestamps from one clock read: decision D22): a distance report writes the reading, the two timestamps and C.NEW in
one action; a REPORT_FRAME of length 4 is a distance report. -/
def Obligations.DistanceReportIsTheNewReading : Prop :=
  ∀ (d : Word) (s : State),
    exec (.distanceReport d) s = .next { s with
      frameOut := some { kind := .report, length := 4, payload := u32le d },
      C := { s.C with mmBits := d, obsT := s.now, lastT := s.now, new := true } } ∧
    exec (.reportFrame (u32le d)) s = exec (.distanceReport d) s

/-- R169 (decision D22): a report of another length changes no register and raises C_REPORT_BADLEN. -/
def Obligations.OtherReportIsIgnored : Prop :=
  ∀ (payload : List Byte) (s : State), payload.length ≠ 4 →
    exec (.reportFrame payload) s = .next { s with
      frameOut := some { kind := .report, length := BitVec.ofNat 16 payload.length, payload := payload },
      trace := s.trace ++ [.cReportBadLen (BitVec.ofNat 16 payload.length)] }

/-- R170: a config frame on the background path only refreshes C.LAST_T. -/
def Obligations.ConfigFrameOnlyRefreshesTheTimestamp : Prop :=
  ∀ (payload : List Byte) (s : State),
    exec (.configFrame payload) s = .next { s with
      frameOut := some { kind := .config, length := BitVec.ofNat 16 payload.length, payload := payload },
      C := { s.C with lastT := s.now } }

/-- R144, R145: during a scan an acknowledgement of the requested opcode succeeds with its whole payload; any other restarts the
scan. Outside a scan nothing reads an acknowledgement and nothing changes: the model's reading, log 16.
That T.OP, T.ARGS, T.TOUT, T.T0 and the scan state keep their values on success is the model's choice, unsafe, log 31. -/
def Obligations.ConfigAckMatchesByOpcodeAlone : Prop :=
  ∀ (echo : Half) (rest : List Byte) (s : State),
    (s.T.phase = .scan → exec (.configAck echo rest) s =
      if echo = s.T.op then .next { s with T := { s.T with ok := true, resp := u16le echo ++ rest, phase := .idle } }
      else .next { s with T := { s.T with pos := .h0 }, trace := s.trace ++ [.tOpcodeMismatch echo] }) ∧
    (s.T.phase ≠ .scan → exec (.configAck echo rest) s = .next s)

/-! ## UPDATE and the parser -/

/-- R165 (decision D24): with no byte waiting UPDATE returns; a byte that completes no frame changes unit P and RXQ alone. That the
request and the first pass, and the last check and the return, are one action each is the model's reading, log 30; the returned value
unit is its form of the port, log 12. -/
def Obligations.UpdateParsesOneByteAtATime : Prop :=
  ∀ s : State, s.T.phase = .idle → s.running = none ∨ s.running = some .update →
    (s.rxq = [] → exec .update s = .next { s with running := none, response := some .unit }) ∧
    (∀ b bs, s.rxq = b :: bs → s.P.Inv → (parserStep s.P b).2.2 = none →
      exec .update s = .next { s with
        rxq := bs, P := (parserStep s.P b).1, running := some .update, trace := s.trace ++ (parserStep s.P b).2.1.toList })

/-- R165, R166, R197 (decision D24): UPDATE takes the whole backlog through the parser, consumes its frames in order, and returns with
RXQ empty; it writes no register of unit T and no byte to TXQ. The schedule is the model's (log 2), the number of steps counts the request
and the first pass, and the last check and the return, as one step each (log 30), and the value unit on the response port is the model's
form of UPDATE's return (log 12). -/
def Obligations.UpdateTakesTheWholeBacklog : Prop :=
  ∀ s : State, s.Inv → s.fault = none → s.Free → s.agenda = .call .update :: List.replicate s.rxq.length .block →
    ∃ t, core.run (s.rxq.length + 1) s = .next t ∧ t.rxq = [] ∧ t.Free ∧ t.response = some .unit ∧
      t.P = (parserFeed s.P s.rxq).1 ∧
      t.C = (parserFeed s.P s.rxq).2.foldl (fun c f => consumerAfter c s.now f) s.C ∧ t.T = s.T ∧ t.txq = s.txq

/-- R183: whatever UPDATE does, it writes no T register, no byte of TXQ, not C.CFG_MODE, and no mark. -/
def Obligations.UpdateFrame : Prop :=
  ∀ s t : State, exec .update s = .next t →
    t.T = s.T ∧ t.txq = s.txq ∧ t.C.cfgMode = s.C.cfgMode ∧ t.now = s.now ∧ t.fault = s.fault ∧ t.refused = s.refused ∧
      t.agenda = s.agenda ∧ t.endless = s.endless ∧ t.draws = s.draws ∧ (t.rxq = s.rxq ∨ ∃ b, s.rxq = b :: t.rxq)

/-- R102 to R108: the header states (that a byte dropped in WH1 is no event: decision D20). -/
def Obligations.HeaderStatesFollowTheAlphabet : Prop :=
  ∀ (p : Parser) (b : Byte),
    let lost := fun (k : Nat) => ({ p with state := .wh1 }, some (Event.pHdrMismatch k b), (none : Option Frame))
    let go := fun (q : PState) => ({ p with state := q }, (none : Option Event), (none : Option Frame))
    (p.state = .wh1 → parserStep p b =
      if b = 0xF4 then ({ p with alph := .report, state := .wh2 }, none, none)
      else if b = 0xFD then ({ p with alph := .config, state := .wh2 }, none, none) else go .wh1) ∧
    (p.state = .wh2 → parserStep p b = if b = (match p.alph with | .report => 0xF3 | .config => 0xFC) then go .wh3 else lost 1) ∧
    (p.state = .wh3 → parserStep p b = if b = (match p.alph with | .report => 0xF2 | .config => 0xFB) then go .wh4 else lost 2) ∧
    (p.state = .wh4 → parserStep p b = if b = (match p.alph with | .report => 0xF1 | .config => 0xFA) then go .wl1 else lost 3)

/-- R110 to R114: the length states (length zero: decision D5; the bound tested once: decision D6). -/
def Obligations.LengthStatesBoundTheLength : Prop :=
  ∀ (p : Parser) (b : Byte),
    (p.state = .wl1 → parserStep p b = ({ p with len := b.setWidth 16, state := .wl2 }, none, none)) ∧
    (p.state = .wl2 → let n := le16 (p.len.setWidth 8) b
      n.toNat = p.len.toNat % 256 + 256 * b.toNat ∧
      parserStep p b =
        if n.toNat > 250 then ({ p with len := n, state := .wh1 }, some (.pOversize n), none)
        else if n.toNat = 0 then ({ p with len := n, idx := 0, state := .wf1 }, none, none)
        else ({ p with len := n, idx := 0, state := .wp }, none, none))

/-- R115: a payload byte is stored at P.IDX whatever its value, every other byte of P.BUF reads as before, and the payload ends by
count alone. -/
def Obligations.PayloadIsStoredByCount : Prop :=
  ∀ (p : Parser) (b : Byte), p.Inv → p.state = .wp →
    ∃ m : Memory, parserStep p b =
        ({ p with buf := m, idx := p.idx + 1, state := if p.idx.toNat + 1 = p.len.toNat then .wf1 else .wp }, none, none) ∧
      m.wf = true ∧ ∀ a, m.read a = if a = p.idx.toNat then b else p.buf.read a

/-- R117 to R121: the footer states; only the fourth footer byte emits the frame. -/
def Obligations.FooterStatesValidateAndEmit : Prop :=
  ∀ (p : Parser) (b : Byte),
    let lost := fun (k : Nat) => ({ p with state := .wh1 }, some (Event.pFtrMismatch k b), (none : Option Frame))
    let go := fun (q : PState) => ({ p with state := q }, (none : Option Event), (none : Option Frame))
    (p.state = .wf1 → parserStep p b = if b = (match p.alph with | .report => 0xF8 | .config => 0x04) then go .wf2 else lost 0) ∧
    (p.state = .wf2 → parserStep p b = if b = (match p.alph with | .report => 0xF7 | .config => 0x03) then go .wf3 else lost 1) ∧
    (p.state = .wf3 → parserStep p b = if b = (match p.alph with | .report => 0xF6 | .config => 0x02) then go .wf4 else lost 2) ∧
    (p.state = .wf4 → parserStep p b =
      if b = (match p.alph with | .report => 0xF5 | .config => 0x01) then
        ({ p with state := .wh1 }, none,
          some { kind := p.alph, length := p.len, payload := p.buf.range 0 p.len.toNat })
      else lost 3)

/-- R126, R128: from WH1, a well-formed frame fed without a gap is emitted, exactly once, by its last byte (number 10 + n), and the
parser is back in WH1. -/
def Obligations.WellFormedFrameIsEmittedAtItsLastByte : Prop :=
  ∀ (p : Parser) (f : Frame), p.state = .wh1 → p.buf.wf = true → f.WellFormed →
    let bytes := encodeFrame f.kind f.payload
    bytes.length = 10 + f.payload.length ∧ (parserFeed p bytes).2 = [f] ∧ (parserFeed p bytes).1.state = .wh1 ∧
      ∀ n, n < bytes.length → (parserFeed p (bytes.take n)).2 = []

/-- R127: from every state the parser is in WH1 again after at most 259 further bytes, from a footer state after at most 4. -/
def Obligations.ParserReturnsToWaitHeader : Prop :=
  ∀ (p : Parser) (bs : List Byte), p.Inv →
    (259 ≤ bs.length → ∃ n, n ≤ 259 ∧ (parserFeed p (bs.take n)).1.state = .wh1) ∧
    (p.state = .wf1 ∨ p.state = .wf2 ∨ p.state = .wf3 ∨ p.state = .wf4 → 4 ≤ bs.length →
      ∃ n, n ≤ 4 ∧ (parserFeed p (bs.take n)).1.state = .wh1)

/-- R26, R27, R127: what unit P held before it was last in WH1 never shows: two parsers in WH1 emit the same frames on the same
bytes, whatever P.ALPH, P.LEN, P.IDX and P.BUF hold. -/
def Obligations.StaleParserRegistersNeverShow : Prop :=
  ∀ (p q : Parser) (bs : List Byte), p.state = .wh1 → q.state = .wh1 → p.buf.wf = true → q.buf.wf = true →
    (parserFeed p bs).2 = (parserFeed q bs).2 ∧ (parserFeed p bs).1.state = (parserFeed q bs).1.state

/-! ## Encoding -/

/-- Decoding an encoded well-formed instruction at its port gives what the wire keeps of it, and the bytes after it (R70 to R79). An
EXCHANGE that is none of the six operations' requests comes back with its opcode and arguments; one of opcode 0x0071 with two argument
bytes is SET_PERIOD of them, in the period's range or not (the model's choice, log 15). The port is the model's (log 14). -/
def Obligations.DecodeOfEncodeIsTheInstruction : Prop :=
  (∀ (i : Instr) (port : Port) (rest : List Byte), i.wellFormed = true → i.port = some port →
    decode port (encode i ++ rest) = .ok (i.onWire, rest)) ∧
  (∀ (op : Half) (args : List Byte) (tout : Millis) (rest : List Byte), args.length ≤ 248 →
    (op = 0x00FF → args ≠ [0x01, 0x00]) → (op = 0x00FE ∨ op = 0x00A2 → args ≠ []) →
    (op = 0x0071 ∨ op = 0x0074 ∨ op = 0x0075 → args.length ≠ 2) →
    decode .sent (encode (.exchange op args tout) ++ rest) = .ok (.exchange op args 1000, rest)) ∧
  ∀ (a0 a1 : Byte) (tout : Millis) (rest : List Byte),
    decode .sent (encode (.exchange 0x0071 [a0, a1] tout) ++ rest) = .ok (.setPeriod (le16 a0 a1) 1000, rest)

/-- What a receiving port decodes is well formed and is exactly the encoding of the bytes read: no received bytes have two readings
at one port (R76, R92). -/
def Obligations.ReceivedBytesAreTheEncodingOfWhatTheyDecodeTo : Prop :=
  ∀ (port : Port) (bs rest : List Byte) (i : Instr), port ≠ .sent → decode port bs = .ok (i, rest) →
    i.wellFormed = true ∧ bs = encode i ++ rest

/-- R79: the full request of each of the six operations, byte by byte; only the clamped period and the distances vary. -/
def Obligations.RequestBytesOfTheSixOperations : Prop :=
  ∀ (t : Millis) (p mm : Half),
    encode (.enterCfg t) = [0xFD, 0xFC, 0xFB, 0xFA, 0x04, 0x00, 0xFF, 0x00, 0x01, 0x00, 0x04, 0x03, 0x02, 0x01] ∧
    encode (.exitCfg t) = [0xFD, 0xFC, 0xFB, 0xFA, 0x02, 0x00, 0xFE, 0x00, 0x04, 0x03, 0x02, 0x01] ∧
    encode (.setPeriod p t) =
      [0xFD, 0xFC, 0xFB, 0xFA, 0x04, 0x00, 0x71, 0x00, (clampPeriod p).setWidth 8, (clampPeriod p >>> 8).setWidth 8, 0x04, 0x03,
        0x02, 0x01] ∧
    encode (.setMinDist mm t) =
      [0xFD, 0xFC, 0xFB, 0xFA, 0x04, 0x00, 0x74, 0x00, mm.setWidth 8, (mm >>> 8).setWidth 8, 0x04, 0x03, 0x02, 0x01] ∧
    encode (.setMaxDist mm t) =
      [0xFD, 0xFC, 0xFB, 0xFA, 0x04, 0x00, 0x75, 0x00, mm.setWidth 8, (mm >>> 8).setWidth 8, 0x04, 0x03, 0x02, 0x01] ∧
    encode (.factoryReset t) = [0xFD, 0xFC, 0xFB, 0xFA, 0x02, 0x00, 0xA2, 0x00, 0x04, 0x03, 0x02, 0x01]

/-- R154: the period is clamped to 50 to 1000, both ends inclusive, and the clamped value is the exchange's argument. -/
def Obligations.PeriodIsClampedBeforeEncoding : Prop :=
  ∀ (p : Half) (t : Millis),
    (clampPeriod p).toNat = (if p.toNat < 50 then 50 else if p.toNat > 1000 then 1000 else p.toNat) ∧
    (Instr.setPeriod p t).request = some (0x0071, u16le (clampPeriod p), t)

/-- A sanity check on words written out from the spec: W2, W10, PV2, PV3, TV12 (R71 to R76, R92). -/
def Obligations.WordsOfTheSpecDecode : Prop :=
  decode .sent [0xFD, 0xFC, 0xFB, 0xFA, 0x04, 0x00, 0x71, 0x00, 0x32, 0x00, 0x04, 0x03, 0x02, 0x01] = .ok (.setPeriod 50 1000, []) ∧
  decode .background [0xF4, 0xF3, 0xF2, 0xF1, 0x04, 0x00, 0x00, 0x50, 0x9A, 0x44, 0xF8, 0xF7, 0xF6, 0xF5] =
    .ok (.distanceReport 0x449A5000, []) ∧
  decode .background [0xFD, 0xFC, 0xFB, 0xFA, 0x00, 0x00, 0x04, 0x03, 0x02, 0x01] = .ok (.configFrame [], []) ∧
  decode .background [0xFD, 0xFC, 0xFB, 0xFA, 0x01, 0x00, 0xAA, 0x04, 0x03, 0x02, 0x01] = .ok (.configFrame [0xAA], []) ∧
  decode .scan [0xFD, 0xFC, 0xFB, 0xFA, 0x02, 0x00, 0xFF, 0x00] = .ok (.configAck 0x00FF [], []) ∧
  decode .scan [0xFD, 0xFC, 0xFB, 0xFA, 0x01, 0x00, 0xFE] = .error (.lengthUnder 1)

/-! ## Faults and marks -/

/-- R44, R190 (decision D21): UPDATE requested while an exchange is in flight is FAULT_HOST_INTERLEAVE; that the fault is the outcome of
the step, with no next state, is the model's form, log 9. -/
def Obligations.InterleavedUpdateFaults : Prop :=
  ∀ s : State, s.T.phase ≠ .idle →
    exec .update s = .fault .hostInterleave ∧
    (s.fault = none → s.running.isSome = true → s.nextAct = .call .update → step s = .fault .hostInterleave)

/-- R49, R190 (decision D30): any other host operation requested while one runs is FAULT_HOST_REENTRY, an EXCHANGE to be refused among
them (R192); that the fault is the outcome of the step, with no next state, is the model's form, log 9. -/
def Obligations.ReentrantRequestFaults : Prop :=
  ∀ (s : State) (i : Instr), s.fault = none → s.running.isSome = true → s.nextAct = .call i → i.isHostOp = true →
    i ≠ .update ∨ s.T.phase = .idle → step s = .fault .hostReentry

/-- R16, R46, R190 (decision D28): no step reads an empty stream. -/
def Obligations.NoStepReadsAnEmptyStream : Prop :=
  ∀ s : State, s.fault = none → step s ≠ .fault .readEmpty

/-- From a state that meets the invariant only a breach by the host has no next state (R190): that it faults, as the outcome of the step,
is the model's form (log 9). Every other step has a next state, the steps in which R192 refuses an operation among them: that such a
refusal is a next state, with the mark REFUSED, and the machine goes on is the model's reading, unsafe, log 10. The model's own fault of
log 8 does not occur. -/
def Obligations.OnlyAHostBreachStopsTheMachine : Prop :=
  ∀ s : State, s.Inv → s.fault = none →
    (∃ t, step s = .next t) ∨
    (∃ i j, s.nextAct = .call i ∧ i.isHostOp = true ∧ s.running = some j ∧
      (step s = .fault .hostInterleave ∨ step s = .fault .hostReentry))

/-- R42, R191 (decision D21): both marks are sticky: no step and no reset clears them, and a faulted run does not go on. That the mark
FAULT stands in the run's record, and what else the record of a faulting step holds, is the model's choice, log 9. -/
def Obligations.MarksAreSticky : Prop :=
  ∀ s : State, (∀ r, s.fault = some r → step s = .fault r ∧ advance s = s) ∧
    (∀ r, s.refused = some r → (advance s).refused = some r)

/-! ## Reset and invariants -/

/-- R210 (decision D19): the values the spec gives at reset; and the invariant, which also bounds registers that R210 leaves unspecified
(T.OK, P.IDX, T.IDX, T.ARGS and the two buffers): at reset it holds of them by the values the model chose, unsafe, log 4 and 7. -/
def Obligations.ResetState : Prop :=
  State.reset.P.state = .wh1 ∧ State.reset.T.phase = .idle ∧ State.reset.T.pos = .h0 ∧ State.reset.T.resp = [] ∧
  State.reset.C.new = false ∧ State.reset.C.cfgMode = false ∧ State.reset.fault = none ∧ State.reset.refused = none ∧
  State.reset.running = none ∧ State.reset.Inv

/-- R42, R210, R212 (decision D19; a reset as an act of the schedule is the model's choice, log 23): a reset of the block puts every
register the spec gives a reset value for at that value, and leaves the streams, the clock and the marks alone. -/
def Obligations.ResetLeavesStreamsClockAndMarks : Prop :=
  ∀ s : State, s.fault = none → s.nextAct = .reset →
    ∃ t, step s = .next t ∧ t.P.state = .wh1 ∧ t.T.phase = .idle ∧ t.T.pos = .h0 ∧ t.T.resp = [] ∧ t.C.new = false ∧
      t.C.cfgMode = false ∧ t.running = none ∧ t.rxq = s.rxq ∧ t.txq = s.txq ∧ t.now = s.now ∧ t.refused = s.refused ∧
      t.fault = s.fault

/-- R24 to R27, R29, R31 to R33, R129: every step keeps the invariant, whatever the outside agents do. The steps include
a reset of the block (the model's choice, log 23), after which the clauses on T.OK (0 with T.RESP empty), P.IDX, T.IDX, T.ARGS and the
buffers hold by the values the model chose where R210 gives none (unsafe, log 4 and 7); after an exchange the clauses on T.ARGS,
T.IDX and T.BUF hold because the model keeps them (unsafe, log 31). That no operation that
exchanges is in flight with T.PHASE IDLE rests on log 32 (unsafe). -/
def Obligations.StepKeepsTheInvariant : Prop :=
  ∀ s t : State, s.Inv → step s = .next t → t.Inv

/-! ## Whole-machine rules -/

/-- R125, R132, R162: while an exchange is in flight no step but a reset writes unit P, and none writes any register of unit C but
C.CFG_MODE. -/
def Obligations.ExchangeLeavesParserAndReadingAlone : Prop :=
  ∀ s t : State, s.PortInv → s.T.phase ≠ .idle → s.nextAct ≠ .reset → step s = .next t →
    t.P = s.P ∧ t.C = { s.C with cfgMode := t.C.cfgMode } ∧ t.frameOut = none

/-- R151: but for a reset of the block, C.CFG_MODE changes only in the step in which ENTER_CFG or EXIT_CFG returns success, to the
value of its row; and a step in which an exchange of any operation fails writes no register of unit C. That the flag changes in
the very step in which the exchange ends and the operation returns is the model's choice, unsafe, log 32. -/
def Obligations.ConfigModeChangesOnlyOnSuccess : Prop :=
  ∀ s t : State, step s = .next t → s.nextAct ≠ .reset →
    (t.C.cfgMode ≠ s.C.cfgMode → s.T.phase = .scan ∧ t.T.phase = .idle ∧ t.T.ok = true ∧ t.running = none ∧
      ((∃ tout, s.running = some (.enterCfg tout) ∧ t.C.cfgMode = true) ∨
       (∃ tout, s.running = some (.exitCfg tout) ∧ t.C.cfgMode = false))) ∧
    (s.T.phase ≠ .idle → t.T.phase = .idle → t.T.ok = false → t.C = s.C)

/-- R135, R172, R180, R183: the block appends to TXQ only in phase SEND, and then exactly the request of the exchange in flight; it
never takes a byte back. That the step of the write ends in phase SCAN is the model's reading (the write and the scan
start are one action, log 1), and that the environment takes bytes off the front of TXQ, never more than there are, its choice, log 26. -/
def Obligations.OnlySendWritesTheOutput : Prop :=
  ∀ s t : State, step s = .next t →
    t.txq = s.txq ∨
    (s.T.phase = .send ∧ s.running.isSome = true ∧ t.T.phase = .scan ∧ t.txq = s.txq ++ encodeRequest s.T.op s.T.args) ∨
    (∃ n, s.nextAct = .tx n ∧ t.txq = s.txq.drop n)

/-- R44, R46, R57, R62: a step leaves RXQ alone; or the environment appends exactly its bytes; or the step takes one byte, the oldest:
with T.PHASE IDLE it is UPDATE that reads, otherwise the drain or the scan, and then unit P is not touched. -/
def Obligations.OneReaderTakesOneByte : Prop :=
  ∀ s t : State, step s = .next t →
    t.rxq = s.rxq ∨
    (∃ bytes, s.nextAct = .rx bytes ∧ t.rxq = s.rxq ++ bytes) ∨
    (∃ b, s.rxq = b :: t.rxq ∧
      (s.T.phase = .idle ∧ t.running = some .update ∧ t.T = s.T ∨
       (s.T.phase = .drain ∨ s.T.phase = .scan) ∧ t.P = s.P))

/-- R28, R195 (log 13): after any step FRAME_OUT carries a frame only if that step took the last footer byte in WF4, and it is the frame
unit P held. -/
def Obligations.FrameOutIsDrivenOnlyByTheLastFooterByte : Prop :=
  ∀ (s t : State) (f : Frame), s.P.Inv → s.PortInv → step s = .next t → t.frameOut = some f →
    s.P.state = .wf4 ∧ s.rxq = ftrByte s.P.alph 3 :: t.rxq ∧ f = s.P.frame ∧ t.P.state = .wh1

/-- R196 (decisions D10, D20): a step raises at most one event. -/
def Obligations.AStepRaisesAtMostOneEvent : Prop :=
  ∀ s t : State, step s = .next t → ∃ es, t.trace = s.trace ++ es ∧ es.length ≤ 1

/-- R185 (decision D20; log 11): no rule reads the event trace: what it holds changes no outcome but the trace itself. -/
def Obligations.TheTraceIsNeverRead : Prop :=
  ∀ (s : State) (tr : List Event), withoutTrace (step { s with trace := tr }) = withoutTrace (step s)

/-- R227 (decision D12; I-U11), for one family of environments: the same bytes, at least one, are appended and the block has one turn, over
and over (log 2; other cycles, clock acts and free schedules are not said anything of). The drain and UPDATE's loop never end: after any
number of steps the operation is in flight; in the drain unit T is as it was (its timeout has not started) and nothing is sent. That the
response port holds the same through these steps is the model's form of the port, unsafe, log 12. -/
def Obligations.AStreamThatNeverEmptiesKeepsTheLoops : Prop :=
  ∀ (s : State) (b : Byte) (bs : List Byte), s.fault = none → s.agenda = [] → s.endless = .cycle (.rx (b :: bs)) [.block] →
    (∀ i, i.request.isSome = true → s.InPhase i .drain → ∀ n, ∃ t, core.run n s = .next t ∧ t.InPhase i .drain ∧ t.T = s.T ∧
      t.txq = s.txq ∧ t.P = s.P ∧ t.C = s.C ∧ t.response = s.response) ∧
    (s.running = some .update → s.T.phase = .idle → s.P.Inv → ∀ n, ∃ t, core.run n s = .next t ∧ t.running = some .update ∧
      t.T = s.T ∧ t.txq = s.txq ∧ t.response = s.response)
end

