-- ==== Sys2Proof/Laws/Memory.lean ====
section
/-! SUPPORT. Buffers: a read after a write, the canonical form, and the index bound. -/

namespace Sys2Proof.Machine

theorem Memory.wf_cons {c : Host.Cell} {m : Memory} :
    Memory.wf (c :: m) = true ↔ c.2 ≠ Memory.blank ∧ (∀ d ∈ m, c.1 < d.1) ∧ m.wf = true := by
  induction m generalizing c with
  | nil => simp [Memory.wf]
  | cons d m ih =>
    simp only [Memory.wf, Bool.and_eq_true, decide_eq_true_eq, List.mem_cons]
    constructor
    · rintro ⟨⟨h1, h2⟩, h3⟩
      refine ⟨h1, ?_, h3⟩
      rintro e (rfl | he)
      · exact h2
      · exact h2.trans ((ih.1 h3).2.1 e he)
    · rintro ⟨h1, h2, h3⟩
      exact ⟨⟨h1, h2 d (Or.inl rfl)⟩, h3⟩

/-- An index below every listed one reads as blank. -/
theorem Memory.read_of_lt {m : Memory} {a : Nat} (h : ∀ d ∈ m, a < d.1) : m.read a = Memory.blank := by
  induction m with
  | nil => rfl
  | cons c m ih =>
    have hc := h c (by simp)
    simp only [Memory.read, if_neg (Nat.ne_of_gt hc)]
    exact ih fun d hd => h d (by simp [hd])

/-- Every cell of a written buffer is the written one or an old one. -/
theorem Memory.mem_write {m : Memory} {a : Nat} {v : Byte} {d : Host.Cell} (h : d ∈ m.write a v) : d = (a, v) ∨ d ∈ m := by
  induction m with
  | nil =>
    simp only [Memory.write] at h
    split at h <;> simp_all
  | cons c m ih =>
    simp only [Memory.write] at h
    split at h
    · split at h <;> simp_all
    · split at h
      · split at h
        · exact .inr (List.mem_cons_of_mem c h)
        · rcases List.mem_cons.1 h with h | h
          · exact .inl h
          · exact .inr (List.mem_cons_of_mem c h)
      · simp only [List.mem_cons] at h ⊢
        rcases h with h | h
        · exact .inr (.inl h)
        · rcases ih h with h | h
          · exact .inl h
          · exact .inr (.inr h)

/-- A write keeps the canonical form. -/
theorem Memory.wf_write {m : Memory} (a : Nat) (v : Byte) (h : m.wf = true) : (m.write a v).wf = true := by
  induction m with
  | nil =>
    simp only [Memory.write]
    split <;> simp_all [Memory.wf]
  | cons c m ih =>
    obtain ⟨h1, h2, h3⟩ := Memory.wf_cons.1 h
    simp only [Memory.write]
    split
    · next hlt =>
      split
      · exact h
      · next hv =>
        refine Memory.wf_cons.2 ⟨hv, ?_, h⟩
        intro d hd
        rcases List.mem_cons.1 hd with rfl | hd
        · exact hlt
        · exact hlt.trans (h2 d hd)
    · next hge =>
      split
      · next heq =>
        split
        · exact h3
        · next hv => exact Memory.wf_cons.2 ⟨hv, fun d hd => heq ▸ h2 d hd, h3⟩
      · next hne =>
        refine Memory.wf_cons.2 ⟨h1, ?_, ih h3⟩
        intro d hd
        rcases Memory.mem_write hd with rfl | hd
        · exact Nat.lt_of_le_of_ne (Nat.le_of_not_lt hge) (Ne.symm hne)
        · exact h2 d hd

/-- A write reads back at its index and leaves every other index alone. -/
theorem Memory.read_write {m : Memory} (a : Nat) (v : Byte) (b : Nat) (h : m.wf = true) :
    (m.write a v).read b = if b = a then v else m.read b := by
  induction m with
  | nil =>
    simp only [Memory.write]
    split
    · next hv => split <;> simp_all [Memory.read]
    · simp only [Memory.read, eq_comm]
  | cons c m ih =>
    obtain ⟨h1, h2, h3⟩ := Memory.wf_cons.1 h
    simp only [Memory.write]
    split
    · next hlt =>
      split
      · next hv =>
        split
        · next hb =>
          subst hb
          rw [hv]
          exact Memory.read_of_lt fun d hd => by
            rcases List.mem_cons.1 hd with rfl | hd
            · exact hlt
            · exact hlt.trans (h2 d hd)
        · rfl
      · simp only [Memory.read, eq_comm]
    · next hge =>
      split
      · next heq =>
        subst heq
        split
        · next hv =>
          split
          · next hb => subst hb; rw [hv]; exact Memory.read_of_lt h2
          · next hb => simp only [Memory.read, if_neg (Ne.symm hb)]
        · simp only [Memory.read, eq_comm]
          split <;> rfl
      · next hne =>
        simp only [Memory.read, ih h3]
        split
        · next hcb => rw [if_neg]; omega
        · rfl

/-- A write below `cap` keeps a buffer within `cap`. -/
theorem Memory.Within.write {m : Memory} {cap a : Nat} (v : Byte) (h : m.Within cap) (ha : a < cap) :
    (m.write a v).Within cap :=
  ⟨Memory.wf_write a v h.1, fun d hd => by
    rcases Memory.mem_write hd with rfl | hd
    · exact ha
    · exact h.2 d hd⟩

theorem Memory.wf_ofBytes (start : Nat) (bs : List Byte) : (Memory.ofBytes start bs).wf = true := by
  induction bs generalizing start with
  | nil => rfl
  | cons b bs ih => exact Memory.wf_write start b (ih (start + 1))

@[simp] theorem Memory.length_range (m : Memory) (start n : Nat) : (m.range start n).length = n := by
  simp [Memory.range]

theorem Memory.range_succ (m : Memory) (start n : Nat) :
    m.range start (n + 1) = m.range start n ++ [m.read (start + n)] := by
  simp [Memory.range, List.range_succ]

/-- A write outside a range leaves the bytes of the range. -/
theorem Memory.range_write_of_not_mem {m : Memory} {start n a : Nat} (v : Byte) (h : m.wf = true) (ha : a < start ∨ start + n ≤ a) :
    (m.write a v).range start n = m.range start n := by
  simp only [Memory.range]
  refine List.map_congr_left fun k hk => ?_
  rw [Memory.read_write _ _ _ h, if_neg]
  have := List.mem_range.1 hk
  omega

/-- Storing the next byte of a string that starts at 0 extends it. -/
theorem Memory.range_write_next {m : Memory} {n : Nat} (v : Byte) (h : m.wf = true) :
    (m.write n v).range 0 (n + 1) = m.range 0 n ++ [v] := by
  rw [Memory.range_succ, Memory.range_write_of_not_mem v h (by omega), Memory.read_write _ _ _ h]
  simp

end Sys2Proof.Machine
end

