-- ==== Sys2Proof/Laws/Wire.lean ====
section
/-! SUPPORT. Byte order, the alphabets, and matching of fixed byte strings. -/

namespace Sys2Proof

theorem le16_toNat (a b : Byte) : (le16 a b).toNat = a.toNat + 256 * b.toNat := by
  have ha := a.isLt
  have hb := b.isLt
  simp only [le16, BitVec.toNat_or, BitVec.toNat_setWidth, BitVec.toNat_shiftLeft, Nat.shiftLeft_eq]
  rw [Nat.mod_eq_of_lt (a := a.toNat) (by omega), Nat.mod_eq_of_lt (a := b.toNat) (by omega),
    Nat.mod_eq_of_lt (by omega), Nat.lor_comm, ← Nat.shiftLeft_eq, ← Nat.shiftLeft_add_eq_or_of_lt (by omega),
    Nat.shiftLeft_eq]
  omega

theorem byteOf_toNat {n : Nat} (v : BitVec n) (k : Nat) : (byteOf v k).toNat = v.toNat / 256 ^ k % 256 := by
  simp [byteOf, Nat.shiftRight_eq_div_pow, pow_mul]

/-- The two bytes of a half, assembled again. -/
@[simp] theorem le16_byteOf (v : Half) : le16 (byteOf v 0) (byteOf v 1) = v := by
  apply BitVec.eq_of_toNat_eq
  have := v.isLt
  simp only [le16_toNat, byteOf_toNat]
  omega

@[simp] theorem byteOf_le16_zero (a b : Byte) : byteOf (le16 a b) 0 = a := by
  apply BitVec.eq_of_toNat_eq
  have := a.isLt
  simp only [le16_toNat, byteOf_toNat]
  omega

@[simp] theorem byteOf_le16_one (a b : Byte) : byteOf (le16 a b) 1 = b := by
  apply BitVec.eq_of_toNat_eq
  have := a.isLt
  have := b.isLt
  simp only [le16_toNat, byteOf_toNat]
  omega

@[simp] theorem u16le_le16 (a b : Byte) : u16le (le16 a b) = [a, b] := by simp [u16le]

@[simp] theorem length_u16le (v : Half) : (u16le v).length = 2 := rfl

@[simp] theorem length_u32le (v : Word) : (u32le v).length = 4 := rfl

@[simp] theorem length_hdr (a : Alphabet) : (hdr a).length = 4 := by cases a <;> rfl

@[simp] theorem length_ftr (a : Alphabet) : (ftr a).length = 4 := by cases a <;> rfl

theorem le32_toNat (a b c d : Byte) :
    (le32 a b c d).toNat = a.toNat + 256 * b.toNat + 256 ^ 2 * c.toNat + 256 ^ 3 * d.toNat := by
  have hab : ((a.setWidth 32 ||| (b.setWidth 32 <<< 8) : Word)).toNat = a.toNat + 256 * b.toNat := by
    have ha := a.isLt
    have hb := b.isLt
    simp only [BitVec.toNat_or, BitVec.toNat_setWidth, BitVec.toNat_shiftLeft]
    rw [Nat.mod_eq_of_lt (a := a.toNat) (by omega), Nat.mod_eq_of_lt (a := b.toNat) (by omega),
      Nat.mod_eq_of_lt (by rw [Nat.shiftLeft_eq]; omega), Nat.lor_comm, ← Nat.shiftLeft_add_eq_or_of_lt (by omega),
      Nat.shiftLeft_eq]
    omega
  have ha := a.isLt
  have hb := b.isLt
  have hc := c.isLt
  have hd := d.isLt
  simp only [le32]
  rw [BitVec.toNat_or, BitVec.toNat_or, hab]
  simp only [BitVec.toNat_setWidth, BitVec.toNat_shiftLeft]
  rw [Nat.mod_eq_of_lt (a := c.toNat) (by omega), Nat.mod_eq_of_lt (a := d.toNat) (by omega),
    Nat.mod_eq_of_lt (a := c.toNat <<< 16) (by rw [Nat.shiftLeft_eq]; omega),
    Nat.mod_eq_of_lt (a := d.toNat <<< 24) (by rw [Nat.shiftLeft_eq]; omega),
    Nat.lor_comm (a.toNat + 256 * b.toNat), ← Nat.shiftLeft_add_eq_or_of_lt (by omega),
    Nat.lor_comm, ← Nat.shiftLeft_add_eq_or_of_lt (by rw [Nat.shiftLeft_eq]; omega), Nat.shiftLeft_eq, Nat.shiftLeft_eq]
  omega

/-- The four bytes of a word, assembled again. -/
@[simp] theorem le32_byteOf (v : Word) : le32 (byteOf v 0) (byteOf v 1) (byteOf v 2) (byteOf v 3) = v := by
  apply BitVec.eq_of_toNat_eq
  have := v.isLt
  simp only [le32_toNat, byteOf_toNat]
  omega

@[simp] theorem u32le_le32 (a b c d : Byte) : u32le (le32 a b c d) = [a, b, c, d] := by
  have ha := a.isLt
  have hb := b.isLt
  have hc := c.isLt
  have hd := d.isLt
  simp only [u32le, List.cons.injEq, and_true]
  refine ⟨?_, ?_, ?_, ?_⟩ <;> apply BitVec.eq_of_toNat_eq <;> simp only [le32_toNat, byteOf_toNat] <;> omega

/-- A fixed string matches itself and leaves what follows. -/
@[simp] theorem matchBytes_append (err : Nat → Byte → DecodeError) (k : Nat) (es rest : List Byte) :
    matchBytes err k es (es ++ rest) = .ok rest := by
  induction es generalizing k with
  | nil => cases rest <;> rfl
  | cons e es ih => simp only [List.cons_append, matchBytes, if_pos]; exact ih (k + 1)

/-- What matched is the fixed string. -/
theorem eq_append_of_matchBytes {err : Nat → Byte → DecodeError} {k : Nat} {es bs rest : List Byte}
    (h : matchBytes err k es bs = .ok rest) : bs = es ++ rest := by
  induction es generalizing k bs with
  | nil => cases bs <;> simp_all [matchBytes]
  | cons e es ih =>
    cases bs with
    | nil => simp [matchBytes] at h
    | cons b bs =>
      simp only [matchBytes] at h
      split at h
      · next hbe => subst hbe; rw [List.cons_append, ← ih h]
      · cases h

@[simp] theorem takeLength_u16le (n : Half) (rest : List Byte) : takeLength (u16le n ++ rest) = .ok (n, rest) := by
  simp [u16le, takeLength]

@[simp] theorem takePayload_append (payload rest : List Byte) :
    takePayload payload.length (payload ++ rest) = .ok (payload, rest) := by
  simp [takePayload]

/-- The clamped period lies in the range (R154). -/
theorem clampPeriod_bounds (p : Half) : 50 ≤ (clampPeriod p).toNat ∧ (clampPeriod p).toNat ≤ 1000 := by
  unfold clampPeriod Config.periodMin Config.periodMax
  split
  · decide
  · split
    · decide
    · next h1 h2 =>
      simp only [BitVec.lt_def, gt_iff_lt, not_lt] at h1 h2
      exact ⟨h1, h2⟩

end Sys2Proof
end

