-- ==== Sys2Proof/Laws/Parser.lean ====
section
/-! SUPPORT. What a parser step can do: when it emits, what it keeps, and that it keeps the invariant of R27. -/

namespace Sys2Proof.Machine

/-- A step emits only on the last footer byte of WF4, and then exactly the frame in flight; it is back in WH1 (R28, R120). -/
theorem parserStep_emits {p : Parser} {b : Byte} {f : Frame} (h : (parserStep p b).2.2 = some f) :
    p.state = .wf4 ∧ b = ftrByte p.alph 3 ∧ f = p.frame ∧
      parserStep p b = ({ p with state := .wh1 }, none, some p.frame) := by
  unfold parserStep at h ⊢
  cases hs : p.state <;> simp only [hs] at h ⊢
  case wf4 =>
    unfold stepEmit at h ⊢
    split at h
    · next hb => simp only [Option.some.injEq] at h; exact ⟨trivial, hb, h.symm, if_pos hb⟩
    · cases h
  case wh1 => unfold stepStart at h; split at h <;> cases h
  case wl2 => unfold stepLenHigh at h; simp only at h; split at h <;> try split at h
              all_goals cases h
  case wl1 => cases h
  case wp => cases h
  all_goals first
    | (unfold stepHeader at h; split at h <;> cases h)
    | (unfold stepFooter at h; split at h <;> cases h)

/-- In WF4 the right byte emits the frame in flight (R120). -/
theorem parserStep_of_last {p : Parser} {b : Byte} (hs : p.state = .wf4) (hb : b = ftrByte p.alph 3) :
    parserStep p b = ({ p with state := .wh1 }, none, some p.frame) := by
  simp only [parserStep, hs, stepEmit, if_pos hb]

/-- A step keeps the invariant (R27). -/
theorem parserStep_inv {p : Parser} (b : Byte) (h : p.Inv) : (parserStep p b).1.Inv := by
  obtain ⟨h1, h2, h3, h4, h5⟩ := h
  unfold parserStep
  cases hs : p.state <;> simp only
  case wh1 => unfold stepStart; split <;> exact ⟨by simp, by simp, by simp, h4, h5⟩
  case wl1 =>
    refine ⟨fun _ => ?_, by simp [stepLenLow], by simp [stepLenLow], h4, h5⟩
    simp only [stepLenLow, zext16, BitVec.toNat_setWidth]
    have := b.isLt
    omega
  case wl2 =>
    unfold stepLenHigh
    simp only
    split
    · exact ⟨by simp, by simp, by simp, h4, h5⟩
    · next hle =>
      split
      · next h0 => exact ⟨by simp, by simp, by simp [h0], by simp, h5⟩
      · next h0 =>
        refine ⟨by simp, fun _ => ?_, by simp, by simp, h5⟩
        have : (le16 (lowByte p.len) b).toNat ≠ 0 := fun hz => h0 (BitVec.eq_of_toNat_eq (by simpa using hz))
        simp only [Config.maxLen] at hle ⊢
        exact ⟨by omega, by omega, by simp; omega⟩
  case wp =>
    obtain ⟨g1, g2, g3⟩ := h2 hs
    simp only [Config.maxLen] at g2 h4
    have hi : (p.idx + 1).toNat = p.idx.toNat + 1 := by
      rw [BitVec.toNat_add]
      simp only [BitVec.ofNat_eq_ofNat, BitVec.toNat_ofNat]
      omega
    have hz : zext16 (p.idx + 1) = p.len ↔ p.idx.toNat + 1 = p.len.toNat := by
      rw [← hi, ← BitVec.toNat_inj]
      simp only [zext16, BitVec.toNat_setWidth]
      rw [Nat.mod_eq_of_lt (by omega)]
    have hb : (p.buf.write p.idx.toNat b).Within Config.maxLen := h5.write b (by simp only [Config.maxLen]; omega)
    unfold stepPayload
    simp only
    split
    · next he =>
      have := hz.1 he
      exact ⟨by simp, by simp, fun _ => ⟨by simp only [Config.maxLen]; omega, by simp only [hi]; omega⟩,
        by simp only [hi, Config.maxLen]; omega, hb⟩
    · next he =>
      have : p.idx.toNat + 1 ≠ p.len.toNat := fun e => he (hz.2 e)
      exact ⟨by simp, fun _ => ⟨g1, by simp only [Config.maxLen]; omega, by simp only [hi]; omega⟩, by simp,
        by simp only [hi, Config.maxLen]; omega, hb⟩
  case wf4 => unfold stepEmit; split <;> exact ⟨by simp, by simp, by simp, h4, h5⟩
  case wh2 => unfold stepHeader; split <;> exact ⟨by simp, by simp, by simp, h4, h5⟩
  case wh3 => unfold stepHeader; split <;> exact ⟨by simp, by simp, by simp, h4, h5⟩
  case wh4 => unfold stepHeader; split <;> exact ⟨by simp, by simp, by simp, h4, h5⟩
  all_goals
    have g := h3 (by simp [hs])
    unfold stepFooter
    split
    · exact ⟨by simp, by simp, fun _ => g, h4, h5⟩
    · exact ⟨by simp, by simp, by simp, h4, h5⟩

/-- The frame in flight in WF4 is well formed (R28, R122). -/
theorem Parser.Inv.frame_wellFormed {p : Parser} (h : p.Inv) (hs : p.state = .wf4) : p.frame.WellFormed := by
  have := (h.2.2.1 (by simp [hs])).1
  simpa [Parser.frame, Frame.WellFormed] using this

/-- No frame in flight reads past P.BUF. -/
theorem Parser.Inv.not_readsPast {p : Parser} (h : p.Inv) (b : Byte) : p.readsPast b = false := by
  simp only [Parser.readsPast, decide_eq_false_iff_not]
  rintro ⟨hs, -, hl⟩
  have := (h.2.2.1 (by simp [hs])).1
  simp only [Config.maxLen, Config.pbufCap] at this hl
  omega

/-- Feeding a string is feeding its parts in order. -/
theorem parserFeed_append (p : Parser) (xs ys : List Byte) :
    parserFeed p (xs ++ ys) =
      ((parserFeed (parserFeed p xs).1 ys).1, (parserFeed p xs).2 ++ (parserFeed (parserFeed p xs).1 ys).2) := by
  induction xs generalizing p with
  | nil => simp [parserFeed]
  | cons x xs ih => simp [parserFeed, ih]

end Sys2Proof.Machine
end

