-- ==== Sys2Proof/Laws/State.lean ====
section
/-! SUPPORT. One lemma for each field and each state update of Machine/Ops.lean, Flags.lean, Exchange.lean and Schedule.lean; and what
the schedule's next act is. -/

namespace Sys2Proof.Machine

/-! writeBytes -/

@[simp] theorem State.writeBytes_P (s : State) (bytes : List Byte) : (s.writeBytes bytes).P = s.P := rfl
@[simp] theorem State.writeBytes_T (s : State) (bytes : List Byte) : (s.writeBytes bytes).T = s.T := rfl
@[simp] theorem State.writeBytes_C (s : State) (bytes : List Byte) : (s.writeBytes bytes).C = s.C := rfl
@[simp] theorem State.writeBytes_rxq (s : State) (bytes : List Byte) : (s.writeBytes bytes).rxq = s.rxq := rfl
@[simp] theorem State.writeBytes_txq (s : State) (bytes : List Byte) : (s.writeBytes bytes).txq = s.txq ++ bytes := rfl
@[simp] theorem State.writeBytes_now (s : State) (bytes : List Byte) : (s.writeBytes bytes).now = s.now := rfl
@[simp] theorem State.writeBytes_frameOut (s : State) (bytes : List Byte) : (s.writeBytes bytes).frameOut = s.frameOut := rfl
@[simp] theorem State.writeBytes_running (s : State) (bytes : List Byte) : (s.writeBytes bytes).running = s.running := rfl
@[simp] theorem State.writeBytes_response (s : State) (bytes : List Byte) : (s.writeBytes bytes).response = s.response := rfl
@[simp] theorem State.writeBytes_fault (s : State) (bytes : List Byte) : (s.writeBytes bytes).fault = s.fault := rfl
@[simp] theorem State.writeBytes_refused (s : State) (bytes : List Byte) : (s.writeBytes bytes).refused = s.refused := rfl
@[simp] theorem State.writeBytes_agenda (s : State) (bytes : List Byte) : (s.writeBytes bytes).agenda = s.agenda := rfl
@[simp] theorem State.writeBytes_endless (s : State) (bytes : List Byte) : (s.writeBytes bytes).endless = s.endless := rfl
@[simp] theorem State.writeBytes_draws (s : State) (bytes : List Byte) : (s.writeBytes bytes).draws = s.draws := rfl
@[simp] theorem State.writeBytes_trace (s : State) (bytes : List Byte) : (s.writeBytes bytes).trace = s.trace := rfl

/-! emit -/

@[simp] theorem State.emit_P (s : State) (f : Frame) : (s.emit f).P = s.P := rfl
@[simp] theorem State.emit_T (s : State) (f : Frame) : (s.emit f).T = s.T := rfl
@[simp] theorem State.emit_C (s : State) (f : Frame) : (s.emit f).C = s.C := rfl
@[simp] theorem State.emit_rxq (s : State) (f : Frame) : (s.emit f).rxq = s.rxq := rfl
@[simp] theorem State.emit_txq (s : State) (f : Frame) : (s.emit f).txq = s.txq := rfl
@[simp] theorem State.emit_now (s : State) (f : Frame) : (s.emit f).now = s.now := rfl
@[simp] theorem State.emit_frameOut (s : State) (f : Frame) : (s.emit f).frameOut = some f := rfl
@[simp] theorem State.emit_running (s : State) (f : Frame) : (s.emit f).running = s.running := rfl
@[simp] theorem State.emit_response (s : State) (f : Frame) : (s.emit f).response = s.response := rfl
@[simp] theorem State.emit_fault (s : State) (f : Frame) : (s.emit f).fault = s.fault := rfl
@[simp] theorem State.emit_refused (s : State) (f : Frame) : (s.emit f).refused = s.refused := rfl
@[simp] theorem State.emit_agenda (s : State) (f : Frame) : (s.emit f).agenda = s.agenda := rfl
@[simp] theorem State.emit_endless (s : State) (f : Frame) : (s.emit f).endless = s.endless := rfl
@[simp] theorem State.emit_draws (s : State) (f : Frame) : (s.emit f).draws = s.draws := rfl
@[simp] theorem State.emit_trace (s : State) (f : Frame) : (s.emit f).trace = s.trace := rfl

/-! clearFrameOut -/

@[simp] theorem State.clearFrameOut_P (s : State) : s.clearFrameOut.P = s.P := rfl
@[simp] theorem State.clearFrameOut_T (s : State) : s.clearFrameOut.T = s.T := rfl
@[simp] theorem State.clearFrameOut_C (s : State) : s.clearFrameOut.C = s.C := rfl
@[simp] theorem State.clearFrameOut_rxq (s : State) : s.clearFrameOut.rxq = s.rxq := rfl
@[simp] theorem State.clearFrameOut_txq (s : State) : s.clearFrameOut.txq = s.txq := rfl
@[simp] theorem State.clearFrameOut_now (s : State) : s.clearFrameOut.now = s.now := rfl
@[simp] theorem State.clearFrameOut_frameOut (s : State) : s.clearFrameOut.frameOut = none := rfl
@[simp] theorem State.clearFrameOut_running (s : State) : s.clearFrameOut.running = s.running := rfl
@[simp] theorem State.clearFrameOut_response (s : State) : s.clearFrameOut.response = s.response := rfl
@[simp] theorem State.clearFrameOut_fault (s : State) : s.clearFrameOut.fault = s.fault := rfl
@[simp] theorem State.clearFrameOut_refused (s : State) : s.clearFrameOut.refused = s.refused := rfl
@[simp] theorem State.clearFrameOut_agenda (s : State) : s.clearFrameOut.agenda = s.agenda := rfl
@[simp] theorem State.clearFrameOut_endless (s : State) : s.clearFrameOut.endless = s.endless := rfl
@[simp] theorem State.clearFrameOut_draws (s : State) : s.clearFrameOut.draws = s.draws := rfl
@[simp] theorem State.clearFrameOut_trace (s : State) : s.clearFrameOut.trace = s.trace := rfl

/-! appendRx -/

@[simp] theorem State.appendRx_P (s : State) (bytes : List Byte) : (s.appendRx bytes).P = s.P := rfl
@[simp] theorem State.appendRx_T (s : State) (bytes : List Byte) : (s.appendRx bytes).T = s.T := rfl
@[simp] theorem State.appendRx_C (s : State) (bytes : List Byte) : (s.appendRx bytes).C = s.C := rfl
@[simp] theorem State.appendRx_rxq (s : State) (bytes : List Byte) : (s.appendRx bytes).rxq = s.rxq ++ bytes := rfl
@[simp] theorem State.appendRx_txq (s : State) (bytes : List Byte) : (s.appendRx bytes).txq = s.txq := rfl
@[simp] theorem State.appendRx_now (s : State) (bytes : List Byte) : (s.appendRx bytes).now = s.now := rfl
@[simp] theorem State.appendRx_frameOut (s : State) (bytes : List Byte) : (s.appendRx bytes).frameOut = s.frameOut := rfl
@[simp] theorem State.appendRx_running (s : State) (bytes : List Byte) : (s.appendRx bytes).running = s.running := rfl
@[simp] theorem State.appendRx_response (s : State) (bytes : List Byte) : (s.appendRx bytes).response = s.response := rfl
@[simp] theorem State.appendRx_fault (s : State) (bytes : List Byte) : (s.appendRx bytes).fault = s.fault := rfl
@[simp] theorem State.appendRx_refused (s : State) (bytes : List Byte) : (s.appendRx bytes).refused = s.refused := rfl
@[simp] theorem State.appendRx_agenda (s : State) (bytes : List Byte) : (s.appendRx bytes).agenda = s.agenda := rfl
@[simp] theorem State.appendRx_endless (s : State) (bytes : List Byte) : (s.appendRx bytes).endless = s.endless := rfl
@[simp] theorem State.appendRx_draws (s : State) (bytes : List Byte) : (s.appendRx bytes).draws = s.draws := rfl
@[simp] theorem State.appendRx_trace (s : State) (bytes : List Byte) : (s.appendRx bytes).trace = s.trace := rfl

/-! takeTx -/

@[simp] theorem State.takeTx_P (s : State) (n : Nat) : (s.takeTx n).P = s.P := rfl
@[simp] theorem State.takeTx_T (s : State) (n : Nat) : (s.takeTx n).T = s.T := rfl
@[simp] theorem State.takeTx_C (s : State) (n : Nat) : (s.takeTx n).C = s.C := rfl
@[simp] theorem State.takeTx_rxq (s : State) (n : Nat) : (s.takeTx n).rxq = s.rxq := rfl
@[simp] theorem State.takeTx_txq (s : State) (n : Nat) : (s.takeTx n).txq = s.txq.drop n := rfl
@[simp] theorem State.takeTx_now (s : State) (n : Nat) : (s.takeTx n).now = s.now := rfl
@[simp] theorem State.takeTx_frameOut (s : State) (n : Nat) : (s.takeTx n).frameOut = s.frameOut := rfl
@[simp] theorem State.takeTx_running (s : State) (n : Nat) : (s.takeTx n).running = s.running := rfl
@[simp] theorem State.takeTx_response (s : State) (n : Nat) : (s.takeTx n).response = s.response := rfl
@[simp] theorem State.takeTx_fault (s : State) (n : Nat) : (s.takeTx n).fault = s.fault := rfl
@[simp] theorem State.takeTx_refused (s : State) (n : Nat) : (s.takeTx n).refused = s.refused := rfl
@[simp] theorem State.takeTx_agenda (s : State) (n : Nat) : (s.takeTx n).agenda = s.agenda := rfl
@[simp] theorem State.takeTx_endless (s : State) (n : Nat) : (s.takeTx n).endless = s.endless := rfl
@[simp] theorem State.takeTx_draws (s : State) (n : Nat) : (s.takeTx n).draws = s.draws := rfl
@[simp] theorem State.takeTx_trace (s : State) (n : Nat) : (s.takeTx n).trace = s.trace := rfl

/-! setClock -/

@[simp] theorem State.setClock_P (s : State) (t : Millis) : (s.setClock t).P = s.P := rfl
@[simp] theorem State.setClock_T (s : State) (t : Millis) : (s.setClock t).T = s.T := rfl
@[simp] theorem State.setClock_C (s : State) (t : Millis) : (s.setClock t).C = s.C := rfl
@[simp] theorem State.setClock_rxq (s : State) (t : Millis) : (s.setClock t).rxq = s.rxq := rfl
@[simp] theorem State.setClock_txq (s : State) (t : Millis) : (s.setClock t).txq = s.txq := rfl
@[simp] theorem State.setClock_now (s : State) (t : Millis) : (s.setClock t).now = t := rfl
@[simp] theorem State.setClock_frameOut (s : State) (t : Millis) : (s.setClock t).frameOut = s.frameOut := rfl
@[simp] theorem State.setClock_running (s : State) (t : Millis) : (s.setClock t).running = s.running := rfl
@[simp] theorem State.setClock_response (s : State) (t : Millis) : (s.setClock t).response = s.response := rfl
@[simp] theorem State.setClock_fault (s : State) (t : Millis) : (s.setClock t).fault = s.fault := rfl
@[simp] theorem State.setClock_refused (s : State) (t : Millis) : (s.setClock t).refused = s.refused := rfl
@[simp] theorem State.setClock_agenda (s : State) (t : Millis) : (s.setClock t).agenda = s.agenda := rfl
@[simp] theorem State.setClock_endless (s : State) (t : Millis) : (s.setClock t).endless = s.endless := rfl
@[simp] theorem State.setClock_draws (s : State) (t : Millis) : (s.setClock t).draws = s.draws := rfl
@[simp] theorem State.setClock_trace (s : State) (t : Millis) : (s.setClock t).trace = s.trace := rfl

/-! raise -/

@[simp] theorem State.raise_P (s : State) (e : Event) : (s.raise e).P = s.P := rfl
@[simp] theorem State.raise_T (s : State) (e : Event) : (s.raise e).T = s.T := rfl
@[simp] theorem State.raise_C (s : State) (e : Event) : (s.raise e).C = s.C := rfl
@[simp] theorem State.raise_rxq (s : State) (e : Event) : (s.raise e).rxq = s.rxq := rfl
@[simp] theorem State.raise_txq (s : State) (e : Event) : (s.raise e).txq = s.txq := rfl
@[simp] theorem State.raise_now (s : State) (e : Event) : (s.raise e).now = s.now := rfl
@[simp] theorem State.raise_frameOut (s : State) (e : Event) : (s.raise e).frameOut = s.frameOut := rfl
@[simp] theorem State.raise_running (s : State) (e : Event) : (s.raise e).running = s.running := rfl
@[simp] theorem State.raise_response (s : State) (e : Event) : (s.raise e).response = s.response := rfl
@[simp] theorem State.raise_fault (s : State) (e : Event) : (s.raise e).fault = s.fault := rfl
@[simp] theorem State.raise_refused (s : State) (e : Event) : (s.raise e).refused = s.refused := rfl
@[simp] theorem State.raise_agenda (s : State) (e : Event) : (s.raise e).agenda = s.agenda := rfl
@[simp] theorem State.raise_endless (s : State) (e : Event) : (s.raise e).endless = s.endless := rfl
@[simp] theorem State.raise_draws (s : State) (e : Event) : (s.raise e).draws = s.draws := rfl
@[simp] theorem State.raise_trace (s : State) (e : Event) : (s.raise e).trace = s.trace ++ [e] := rfl

/-! refuse -/

@[simp] theorem State.refuse_P (s : State) (r : RefuseReason) : (s.refuse r).P = s.P := rfl
@[simp] theorem State.refuse_T (s : State) (r : RefuseReason) : (s.refuse r).T = s.T := rfl
@[simp] theorem State.refuse_C (s : State) (r : RefuseReason) : (s.refuse r).C = s.C := rfl
@[simp] theorem State.refuse_rxq (s : State) (r : RefuseReason) : (s.refuse r).rxq = s.rxq := rfl
@[simp] theorem State.refuse_txq (s : State) (r : RefuseReason) : (s.refuse r).txq = s.txq := rfl
@[simp] theorem State.refuse_now (s : State) (r : RefuseReason) : (s.refuse r).now = s.now := rfl
@[simp] theorem State.refuse_frameOut (s : State) (r : RefuseReason) : (s.refuse r).frameOut = s.frameOut := rfl
@[simp] theorem State.refuse_running (s : State) (r : RefuseReason) : (s.refuse r).running = s.running := rfl
@[simp] theorem State.refuse_response (s : State) (r : RefuseReason) : (s.refuse r).response = s.response := rfl
@[simp] theorem State.refuse_fault (s : State) (r : RefuseReason) : (s.refuse r).fault = s.fault := rfl
@[simp] theorem State.refuse_refused (s : State) (r : RefuseReason) : (s.refuse r).refused = s.refused.or (some r) := rfl
@[simp] theorem State.refuse_agenda (s : State) (r : RefuseReason) : (s.refuse r).agenda = s.agenda := rfl
@[simp] theorem State.refuse_endless (s : State) (r : RefuseReason) : (s.refuse r).endless = s.endless := rfl
@[simp] theorem State.refuse_draws (s : State) (r : RefuseReason) : (s.refuse r).draws = s.draws := rfl
@[simp] theorem State.refuse_trace (s : State) (r : RefuseReason) : (s.refuse r).trace = s.trace := rfl

/-! markFault -/

@[simp] theorem State.markFault_P (s : State) (r : Fault) : (s.markFault r).P = s.P := rfl
@[simp] theorem State.markFault_T (s : State) (r : Fault) : (s.markFault r).T = s.T := rfl
@[simp] theorem State.markFault_C (s : State) (r : Fault) : (s.markFault r).C = s.C := rfl
@[simp] theorem State.markFault_rxq (s : State) (r : Fault) : (s.markFault r).rxq = s.rxq := rfl
@[simp] theorem State.markFault_txq (s : State) (r : Fault) : (s.markFault r).txq = s.txq := rfl
@[simp] theorem State.markFault_now (s : State) (r : Fault) : (s.markFault r).now = s.now := rfl
@[simp] theorem State.markFault_frameOut (s : State) (r : Fault) : (s.markFault r).frameOut = s.frameOut := rfl
@[simp] theorem State.markFault_running (s : State) (r : Fault) : (s.markFault r).running = s.running := rfl
@[simp] theorem State.markFault_response (s : State) (r : Fault) : (s.markFault r).response = s.response := rfl
@[simp] theorem State.markFault_fault (s : State) (r : Fault) : (s.markFault r).fault = s.fault.or (some r) := rfl
@[simp] theorem State.markFault_refused (s : State) (r : Fault) : (s.markFault r).refused = s.refused := rfl
@[simp] theorem State.markFault_agenda (s : State) (r : Fault) : (s.markFault r).agenda = s.agenda := rfl
@[simp] theorem State.markFault_endless (s : State) (r : Fault) : (s.markFault r).endless = s.endless := rfl
@[simp] theorem State.markFault_draws (s : State) (r : Fault) : (s.markFault r).draws = s.draws := rfl
@[simp] theorem State.markFault_trace (s : State) (r : Fault) : (s.markFault r).trace = s.trace := rfl

/-! respond -/

@[simp] theorem State.respond_P (s : State) (v : Response) : (s.respond v).P = s.P := rfl
@[simp] theorem State.respond_T (s : State) (v : Response) : (s.respond v).T = s.T := rfl
@[simp] theorem State.respond_C (s : State) (v : Response) : (s.respond v).C = s.C := rfl
@[simp] theorem State.respond_rxq (s : State) (v : Response) : (s.respond v).rxq = s.rxq := rfl
@[simp] theorem State.respond_txq (s : State) (v : Response) : (s.respond v).txq = s.txq := rfl
@[simp] theorem State.respond_now (s : State) (v : Response) : (s.respond v).now = s.now := rfl
@[simp] theorem State.respond_frameOut (s : State) (v : Response) : (s.respond v).frameOut = s.frameOut := rfl
@[simp] theorem State.respond_running (s : State) (v : Response) : (s.respond v).running = none := rfl
@[simp] theorem State.respond_response (s : State) (v : Response) : (s.respond v).response = some v := rfl
@[simp] theorem State.respond_fault (s : State) (v : Response) : (s.respond v).fault = s.fault := rfl
@[simp] theorem State.respond_refused (s : State) (v : Response) : (s.respond v).refused = s.refused := rfl
@[simp] theorem State.respond_agenda (s : State) (v : Response) : (s.respond v).agenda = s.agenda := rfl
@[simp] theorem State.respond_endless (s : State) (v : Response) : (s.respond v).endless = s.endless := rfl
@[simp] theorem State.respond_draws (s : State) (v : Response) : (s.respond v).draws = s.draws := rfl
@[simp] theorem State.respond_trace (s : State) (v : Response) : (s.respond v).trace = s.trace := rfl

/-! run -/

@[simp] theorem State.run_P (s : State) (i : Instr) : (s.run i).P = s.P := rfl
@[simp] theorem State.run_T (s : State) (i : Instr) : (s.run i).T = s.T := rfl
@[simp] theorem State.run_C (s : State) (i : Instr) : (s.run i).C = s.C := rfl
@[simp] theorem State.run_rxq (s : State) (i : Instr) : (s.run i).rxq = s.rxq := rfl
@[simp] theorem State.run_txq (s : State) (i : Instr) : (s.run i).txq = s.txq := rfl
@[simp] theorem State.run_now (s : State) (i : Instr) : (s.run i).now = s.now := rfl
@[simp] theorem State.run_frameOut (s : State) (i : Instr) : (s.run i).frameOut = s.frameOut := rfl
@[simp] theorem State.run_running (s : State) (i : Instr) : (s.run i).running = some i := rfl
@[simp] theorem State.run_response (s : State) (i : Instr) : (s.run i).response = s.response := rfl
@[simp] theorem State.run_fault (s : State) (i : Instr) : (s.run i).fault = s.fault := rfl
@[simp] theorem State.run_refused (s : State) (i : Instr) : (s.run i).refused = s.refused := rfl
@[simp] theorem State.run_agenda (s : State) (i : Instr) : (s.run i).agenda = s.agenda := rfl
@[simp] theorem State.run_endless (s : State) (i : Instr) : (s.run i).endless = s.endless := rfl
@[simp] theorem State.run_draws (s : State) (i : Instr) : (s.run i).draws = s.draws := rfl
@[simp] theorem State.run_trace (s : State) (i : Instr) : (s.run i).trace = s.trace := rfl

/-! clearResponse -/

@[simp] theorem State.clearResponse_P (s : State) : s.clearResponse.P = s.P := rfl
@[simp] theorem State.clearResponse_T (s : State) : s.clearResponse.T = s.T := rfl
@[simp] theorem State.clearResponse_C (s : State) : s.clearResponse.C = s.C := rfl
@[simp] theorem State.clearResponse_rxq (s : State) : s.clearResponse.rxq = s.rxq := rfl
@[simp] theorem State.clearResponse_txq (s : State) : s.clearResponse.txq = s.txq := rfl
@[simp] theorem State.clearResponse_now (s : State) : s.clearResponse.now = s.now := rfl
@[simp] theorem State.clearResponse_frameOut (s : State) : s.clearResponse.frameOut = s.frameOut := rfl
@[simp] theorem State.clearResponse_running (s : State) : s.clearResponse.running = s.running := rfl
@[simp] theorem State.clearResponse_response (s : State) : s.clearResponse.response = none := rfl
@[simp] theorem State.clearResponse_fault (s : State) : s.clearResponse.fault = s.fault := rfl
@[simp] theorem State.clearResponse_refused (s : State) : s.clearResponse.refused = s.refused := rfl
@[simp] theorem State.clearResponse_agenda (s : State) : s.clearResponse.agenda = s.agenda := rfl
@[simp] theorem State.clearResponse_endless (s : State) : s.clearResponse.endless = s.endless := rfl
@[simp] theorem State.clearResponse_draws (s : State) : s.clearResponse.draws = s.draws := rfl
@[simp] theorem State.clearResponse_trace (s : State) : s.clearResponse.trace = s.trace := rfl

/-! resetBlock -/

@[simp] theorem State.resetBlock_P (s : State) : s.resetBlock.P = Parser.reset := rfl
@[simp] theorem State.resetBlock_T (s : State) : s.resetBlock.T = Transactor.reset := rfl
@[simp] theorem State.resetBlock_C (s : State) : s.resetBlock.C = Consumer.resetAt s.draws := rfl
@[simp] theorem State.resetBlock_rxq (s : State) : s.resetBlock.rxq = s.rxq := rfl
@[simp] theorem State.resetBlock_txq (s : State) : s.resetBlock.txq = s.txq := rfl
@[simp] theorem State.resetBlock_now (s : State) : s.resetBlock.now = s.now := rfl
@[simp] theorem State.resetBlock_frameOut (s : State) : s.resetBlock.frameOut = none := rfl
@[simp] theorem State.resetBlock_running (s : State) : s.resetBlock.running = none := rfl
@[simp] theorem State.resetBlock_response (s : State) : s.resetBlock.response = none := rfl
@[simp] theorem State.resetBlock_fault (s : State) : s.resetBlock.fault = s.fault := rfl
@[simp] theorem State.resetBlock_refused (s : State) : s.resetBlock.refused = s.refused := rfl
@[simp] theorem State.resetBlock_agenda (s : State) : s.resetBlock.agenda = s.agenda := rfl
@[simp] theorem State.resetBlock_endless (s : State) : s.resetBlock.endless = s.endless := rfl
@[simp] theorem State.resetBlock_draws (s : State) : s.resetBlock.draws = s.draws + 3 := rfl
@[simp] theorem State.resetBlock_trace (s : State) : s.resetBlock.trace = s.trace := rfl

/-! clearNew -/

@[simp] theorem State.clearNew_P (s : State) : s.clearNew.P = s.P := rfl
@[simp] theorem State.clearNew_T (s : State) : s.clearNew.T = s.T := rfl
@[simp] theorem State.clearNew_C (s : State) : s.clearNew.C = { s.C with new := false } := rfl
@[simp] theorem State.clearNew_rxq (s : State) : s.clearNew.rxq = s.rxq := rfl
@[simp] theorem State.clearNew_txq (s : State) : s.clearNew.txq = s.txq := rfl
@[simp] theorem State.clearNew_now (s : State) : s.clearNew.now = s.now := rfl
@[simp] theorem State.clearNew_frameOut (s : State) : s.clearNew.frameOut = s.frameOut := rfl
@[simp] theorem State.clearNew_running (s : State) : s.clearNew.running = s.running := rfl
@[simp] theorem State.clearNew_response (s : State) : s.clearNew.response = s.response := rfl
@[simp] theorem State.clearNew_fault (s : State) : s.clearNew.fault = s.fault := rfl
@[simp] theorem State.clearNew_refused (s : State) : s.clearNew.refused = s.refused := rfl
@[simp] theorem State.clearNew_agenda (s : State) : s.clearNew.agenda = s.agenda := rfl
@[simp] theorem State.clearNew_endless (s : State) : s.clearNew.endless = s.endless := rfl
@[simp] theorem State.clearNew_draws (s : State) : s.clearNew.draws = s.draws := rfl
@[simp] theorem State.clearNew_trace (s : State) : s.clearNew.trace = s.trace := rfl

/-! setCfgMode -/

@[simp] theorem State.setCfgMode_P (s : State) (v : Bool) : (s.setCfgMode v).P = s.P := rfl
@[simp] theorem State.setCfgMode_T (s : State) (v : Bool) : (s.setCfgMode v).T = s.T := rfl
@[simp] theorem State.setCfgMode_C (s : State) (v : Bool) : (s.setCfgMode v).C = { s.C with cfgMode := v } := rfl
@[simp] theorem State.setCfgMode_rxq (s : State) (v : Bool) : (s.setCfgMode v).rxq = s.rxq := rfl
@[simp] theorem State.setCfgMode_txq (s : State) (v : Bool) : (s.setCfgMode v).txq = s.txq := rfl
@[simp] theorem State.setCfgMode_now (s : State) (v : Bool) : (s.setCfgMode v).now = s.now := rfl
@[simp] theorem State.setCfgMode_frameOut (s : State) (v : Bool) : (s.setCfgMode v).frameOut = s.frameOut := rfl
@[simp] theorem State.setCfgMode_running (s : State) (v : Bool) : (s.setCfgMode v).running = s.running := rfl
@[simp] theorem State.setCfgMode_response (s : State) (v : Bool) : (s.setCfgMode v).response = s.response := rfl
@[simp] theorem State.setCfgMode_fault (s : State) (v : Bool) : (s.setCfgMode v).fault = s.fault := rfl
@[simp] theorem State.setCfgMode_refused (s : State) (v : Bool) : (s.setCfgMode v).refused = s.refused := rfl
@[simp] theorem State.setCfgMode_agenda (s : State) (v : Bool) : (s.setCfgMode v).agenda = s.agenda := rfl
@[simp] theorem State.setCfgMode_endless (s : State) (v : Bool) : (s.setCfgMode v).endless = s.endless := rfl
@[simp] theorem State.setCfgMode_draws (s : State) (v : Bool) : (s.setCfgMode v).draws = s.draws := rfl
@[simp] theorem State.setCfgMode_trace (s : State) (v : Bool) : (s.setCfgMode v).trace = s.trace := rfl

/-! newReading -/

@[simp] theorem State.newReading_P (s : State) (d : Word) : (s.newReading d).P = s.P := rfl
@[simp] theorem State.newReading_T (s : State) (d : Word) : (s.newReading d).T = s.T := rfl
@[simp] theorem State.newReading_C (s : State) (d : Word) : (s.newReading d).C = { s.C with mmBits := d, obsT := s.now, lastT := s.now, new := true } := rfl
@[simp] theorem State.newReading_rxq (s : State) (d : Word) : (s.newReading d).rxq = s.rxq := rfl
@[simp] theorem State.newReading_txq (s : State) (d : Word) : (s.newReading d).txq = s.txq := rfl
@[simp] theorem State.newReading_now (s : State) (d : Word) : (s.newReading d).now = s.now := rfl
@[simp] theorem State.newReading_frameOut (s : State) (d : Word) : (s.newReading d).frameOut = s.frameOut := rfl
@[simp] theorem State.newReading_running (s : State) (d : Word) : (s.newReading d).running = s.running := rfl
@[simp] theorem State.newReading_response (s : State) (d : Word) : (s.newReading d).response = s.response := rfl
@[simp] theorem State.newReading_fault (s : State) (d : Word) : (s.newReading d).fault = s.fault := rfl
@[simp] theorem State.newReading_refused (s : State) (d : Word) : (s.newReading d).refused = s.refused := rfl
@[simp] theorem State.newReading_agenda (s : State) (d : Word) : (s.newReading d).agenda = s.agenda := rfl
@[simp] theorem State.newReading_endless (s : State) (d : Word) : (s.newReading d).endless = s.endless := rfl
@[simp] theorem State.newReading_draws (s : State) (d : Word) : (s.newReading d).draws = s.draws := rfl
@[simp] theorem State.newReading_trace (s : State) (d : Word) : (s.newReading d).trace = s.trace := rfl

/-! refreshLast -/

@[simp] theorem State.refreshLast_P (s : State) : s.refreshLast.P = s.P := rfl
@[simp] theorem State.refreshLast_T (s : State) : s.refreshLast.T = s.T := rfl
@[simp] theorem State.refreshLast_C (s : State) : s.refreshLast.C = { s.C with lastT := s.now } := rfl
@[simp] theorem State.refreshLast_rxq (s : State) : s.refreshLast.rxq = s.rxq := rfl
@[simp] theorem State.refreshLast_txq (s : State) : s.refreshLast.txq = s.txq := rfl
@[simp] theorem State.refreshLast_now (s : State) : s.refreshLast.now = s.now := rfl
@[simp] theorem State.refreshLast_frameOut (s : State) : s.refreshLast.frameOut = s.frameOut := rfl
@[simp] theorem State.refreshLast_running (s : State) : s.refreshLast.running = s.running := rfl
@[simp] theorem State.refreshLast_response (s : State) : s.refreshLast.response = s.response := rfl
@[simp] theorem State.refreshLast_fault (s : State) : s.refreshLast.fault = s.fault := rfl
@[simp] theorem State.refreshLast_refused (s : State) : s.refreshLast.refused = s.refused := rfl
@[simp] theorem State.refreshLast_agenda (s : State) : s.refreshLast.agenda = s.agenda := rfl
@[simp] theorem State.refreshLast_endless (s : State) : s.refreshLast.endless = s.endless := rfl
@[simp] theorem State.refreshLast_draws (s : State) : s.refreshLast.draws = s.draws := rfl
@[simp] theorem State.refreshLast_trace (s : State) : s.refreshLast.trace = s.trace := rfl

/-! exchangeSucceeds -/

@[simp] theorem State.exchangeSucceeds_P (s : State) (payload : List Byte) : (s.exchangeSucceeds payload).P = s.P := rfl
@[simp] theorem State.exchangeSucceeds_T (s : State) (payload : List Byte) : (s.exchangeSucceeds payload).T = { s.T with ok := true, resp := payload, phase := .idle } := rfl
@[simp] theorem State.exchangeSucceeds_C (s : State) (payload : List Byte) : (s.exchangeSucceeds payload).C = s.C := rfl
@[simp] theorem State.exchangeSucceeds_rxq (s : State) (payload : List Byte) : (s.exchangeSucceeds payload).rxq = s.rxq := rfl
@[simp] theorem State.exchangeSucceeds_txq (s : State) (payload : List Byte) : (s.exchangeSucceeds payload).txq = s.txq := rfl
@[simp] theorem State.exchangeSucceeds_now (s : State) (payload : List Byte) : (s.exchangeSucceeds payload).now = s.now := rfl
@[simp] theorem State.exchangeSucceeds_frameOut (s : State) (payload : List Byte) : (s.exchangeSucceeds payload).frameOut = s.frameOut := rfl
@[simp] theorem State.exchangeSucceeds_running (s : State) (payload : List Byte) : (s.exchangeSucceeds payload).running = s.running := rfl
@[simp] theorem State.exchangeSucceeds_response (s : State) (payload : List Byte) : (s.exchangeSucceeds payload).response = s.response := rfl
@[simp] theorem State.exchangeSucceeds_fault (s : State) (payload : List Byte) : (s.exchangeSucceeds payload).fault = s.fault := rfl
@[simp] theorem State.exchangeSucceeds_refused (s : State) (payload : List Byte) : (s.exchangeSucceeds payload).refused = s.refused := rfl
@[simp] theorem State.exchangeSucceeds_agenda (s : State) (payload : List Byte) : (s.exchangeSucceeds payload).agenda = s.agenda := rfl
@[simp] theorem State.exchangeSucceeds_endless (s : State) (payload : List Byte) : (s.exchangeSucceeds payload).endless = s.endless := rfl
@[simp] theorem State.exchangeSucceeds_draws (s : State) (payload : List Byte) : (s.exchangeSucceeds payload).draws = s.draws := rfl
@[simp] theorem State.exchangeSucceeds_trace (s : State) (payload : List Byte) : (s.exchangeSucceeds payload).trace = s.trace := rfl

/-! exchangeFails -/

@[simp] theorem State.exchangeFails_P (s : State) : s.exchangeFails.P = s.P := rfl
@[simp] theorem State.exchangeFails_T (s : State) : s.exchangeFails.T = { s.T with ok := false, resp := [], phase := .idle } := rfl
@[simp] theorem State.exchangeFails_C (s : State) : s.exchangeFails.C = s.C := rfl
@[simp] theorem State.exchangeFails_rxq (s : State) : s.exchangeFails.rxq = s.rxq := rfl
@[simp] theorem State.exchangeFails_txq (s : State) : s.exchangeFails.txq = s.txq := rfl
@[simp] theorem State.exchangeFails_now (s : State) : s.exchangeFails.now = s.now := rfl
@[simp] theorem State.exchangeFails_frameOut (s : State) : s.exchangeFails.frameOut = s.frameOut := rfl
@[simp] theorem State.exchangeFails_running (s : State) : s.exchangeFails.running = s.running := rfl
@[simp] theorem State.exchangeFails_response (s : State) : s.exchangeFails.response = s.response := rfl
@[simp] theorem State.exchangeFails_fault (s : State) : s.exchangeFails.fault = s.fault := rfl
@[simp] theorem State.exchangeFails_refused (s : State) : s.exchangeFails.refused = s.refused := rfl
@[simp] theorem State.exchangeFails_agenda (s : State) : s.exchangeFails.agenda = s.agenda := rfl
@[simp] theorem State.exchangeFails_endless (s : State) : s.exchangeFails.endless = s.endless := rfl
@[simp] theorem State.exchangeFails_draws (s : State) : s.exchangeFails.draws = s.draws := rfl
@[simp] theorem State.exchangeFails_trace (s : State) : s.exchangeFails.trace = s.trace ++ [.tTimeout] := rfl

/-! startExchange -/

@[simp] theorem State.startExchange_P (s : State) (i : Instr) (op : Half) (args : List Byte) (tout : Millis) : (s.startExchange i op args tout).P = s.P := rfl
@[simp] theorem State.startExchange_T (s : State) (i : Instr) (op : Half) (args : List Byte) (tout : Millis) : (s.startExchange i op args tout).T = { s.T with op := op, args := args, tout := tout, phase := .drain } := rfl
@[simp] theorem State.startExchange_C (s : State) (i : Instr) (op : Half) (args : List Byte) (tout : Millis) : (s.startExchange i op args tout).C = s.C := rfl
@[simp] theorem State.startExchange_rxq (s : State) (i : Instr) (op : Half) (args : List Byte) (tout : Millis) : (s.startExchange i op args tout).rxq = s.rxq := rfl
@[simp] theorem State.startExchange_txq (s : State) (i : Instr) (op : Half) (args : List Byte) (tout : Millis) : (s.startExchange i op args tout).txq = s.txq := rfl
@[simp] theorem State.startExchange_now (s : State) (i : Instr) (op : Half) (args : List Byte) (tout : Millis) : (s.startExchange i op args tout).now = s.now := rfl
@[simp] theorem State.startExchange_frameOut (s : State) (i : Instr) (op : Half) (args : List Byte) (tout : Millis) : (s.startExchange i op args tout).frameOut = s.frameOut := rfl
@[simp] theorem State.startExchange_running (s : State) (i : Instr) (op : Half) (args : List Byte) (tout : Millis) : (s.startExchange i op args tout).running = some i := rfl
@[simp] theorem State.startExchange_response (s : State) (i : Instr) (op : Half) (args : List Byte) (tout : Millis) : (s.startExchange i op args tout).response = s.response := rfl
@[simp] theorem State.startExchange_fault (s : State) (i : Instr) (op : Half) (args : List Byte) (tout : Millis) : (s.startExchange i op args tout).fault = s.fault := rfl
@[simp] theorem State.startExchange_refused (s : State) (i : Instr) (op : Half) (args : List Byte) (tout : Millis) : (s.startExchange i op args tout).refused = s.refused := rfl
@[simp] theorem State.startExchange_agenda (s : State) (i : Instr) (op : Half) (args : List Byte) (tout : Millis) : (s.startExchange i op args tout).agenda = s.agenda := rfl
@[simp] theorem State.startExchange_endless (s : State) (i : Instr) (op : Half) (args : List Byte) (tout : Millis) : (s.startExchange i op args tout).endless = s.endless := rfl
@[simp] theorem State.startExchange_draws (s : State) (i : Instr) (op : Half) (args : List Byte) (tout : Millis) : (s.startExchange i op args tout).draws = s.draws := rfl
@[simp] theorem State.startExchange_trace (s : State) (i : Instr) (op : Half) (args : List Byte) (tout : Millis) : (s.startExchange i op args tout).trace = s.trace := rfl

/-! startScan -/

@[simp] theorem State.startScan_P (s : State) : s.startScan.P = s.P := rfl
@[simp] theorem State.startScan_T (s : State) : s.startScan.T = { s.T with t0 := s.now, pos := .h0, phase := .scan } := rfl
@[simp] theorem State.startScan_C (s : State) : s.startScan.C = s.C := rfl
@[simp] theorem State.startScan_rxq (s : State) : s.startScan.rxq = s.rxq := rfl
@[simp] theorem State.startScan_txq (s : State) : s.startScan.txq = s.txq := rfl
@[simp] theorem State.startScan_now (s : State) : s.startScan.now = s.now := rfl
@[simp] theorem State.startScan_frameOut (s : State) : s.startScan.frameOut = s.frameOut := rfl
@[simp] theorem State.startScan_running (s : State) : s.startScan.running = s.running := rfl
@[simp] theorem State.startScan_response (s : State) : s.startScan.response = s.response := rfl
@[simp] theorem State.startScan_fault (s : State) : s.startScan.fault = s.fault := rfl
@[simp] theorem State.startScan_refused (s : State) : s.startScan.refused = s.refused := rfl
@[simp] theorem State.startScan_agenda (s : State) : s.startScan.agenda = s.agenda := rfl
@[simp] theorem State.startScan_endless (s : State) : s.startScan.endless = s.endless := rfl
@[simp] theorem State.startScan_draws (s : State) : s.startScan.draws = s.draws := rfl
@[simp] theorem State.startScan_trace (s : State) : s.startScan.trace = s.trace := rfl

/-! setCfgModeIfOk: unit C alone, and only after a success. -/

@[simp] theorem State.setCfgModeIfOk_P (s : State) (v : Bool) : (s.setCfgModeIfOk v).P = s.P := by
  unfold State.setCfgModeIfOk; split <;> rfl
@[simp] theorem State.setCfgModeIfOk_T (s : State) (v : Bool) : (s.setCfgModeIfOk v).T = s.T := by
  unfold State.setCfgModeIfOk; split <;> rfl
@[simp] theorem State.setCfgModeIfOk_C (s : State) (v : Bool) :
    (s.setCfgModeIfOk v).C = if s.T.ok then { s.C with cfgMode := v } else s.C := by
  unfold State.setCfgModeIfOk; split <;> rfl
@[simp] theorem State.setCfgModeIfOk_rxq (s : State) (v : Bool) : (s.setCfgModeIfOk v).rxq = s.rxq := by
  unfold State.setCfgModeIfOk; split <;> rfl
@[simp] theorem State.setCfgModeIfOk_txq (s : State) (v : Bool) : (s.setCfgModeIfOk v).txq = s.txq := by
  unfold State.setCfgModeIfOk; split <;> rfl
@[simp] theorem State.setCfgModeIfOk_now (s : State) (v : Bool) : (s.setCfgModeIfOk v).now = s.now := by
  unfold State.setCfgModeIfOk; split <;> rfl
@[simp] theorem State.setCfgModeIfOk_frameOut (s : State) (v : Bool) : (s.setCfgModeIfOk v).frameOut = s.frameOut := by
  unfold State.setCfgModeIfOk; split <;> rfl
@[simp] theorem State.setCfgModeIfOk_running (s : State) (v : Bool) : (s.setCfgModeIfOk v).running = s.running := by
  unfold State.setCfgModeIfOk; split <;> rfl
@[simp] theorem State.setCfgModeIfOk_response (s : State) (v : Bool) : (s.setCfgModeIfOk v).response = s.response := by
  unfold State.setCfgModeIfOk; split <;> rfl
@[simp] theorem State.setCfgModeIfOk_fault (s : State) (v : Bool) : (s.setCfgModeIfOk v).fault = s.fault := by
  unfold State.setCfgModeIfOk; split <;> rfl
@[simp] theorem State.setCfgModeIfOk_refused (s : State) (v : Bool) : (s.setCfgModeIfOk v).refused = s.refused := by
  unfold State.setCfgModeIfOk; split <;> rfl
@[simp] theorem State.setCfgModeIfOk_agenda (s : State) (v : Bool) : (s.setCfgModeIfOk v).agenda = s.agenda := by
  unfold State.setCfgModeIfOk; split <;> rfl
@[simp] theorem State.setCfgModeIfOk_endless (s : State) (v : Bool) : (s.setCfgModeIfOk v).endless = s.endless := by
  unfold State.setCfgModeIfOk; split <;> rfl
@[simp] theorem State.setCfgModeIfOk_draws (s : State) (v : Bool) : (s.setCfgModeIfOk v).draws = s.draws := by
  unfold State.setCfgModeIfOk; split <;> rfl
@[simp] theorem State.setCfgModeIfOk_trace (s : State) (v : Bool) : (s.setCfgModeIfOk v).trace = s.trace := by
  unfold State.setCfgModeIfOk; split <;> rfl

/-! raiseAll: the trace alone. -/

@[simp] theorem State.raiseAll_P (s : State) (e : Option Event) : (s.raiseAll e).P = s.P := by
  cases e <;> rfl
@[simp] theorem State.raiseAll_T (s : State) (e : Option Event) : (s.raiseAll e).T = s.T := by
  cases e <;> rfl
@[simp] theorem State.raiseAll_C (s : State) (e : Option Event) : (s.raiseAll e).C = s.C := by
  cases e <;> rfl
@[simp] theorem State.raiseAll_rxq (s : State) (e : Option Event) : (s.raiseAll e).rxq = s.rxq := by
  cases e <;> rfl
@[simp] theorem State.raiseAll_txq (s : State) (e : Option Event) : (s.raiseAll e).txq = s.txq := by
  cases e <;> rfl
@[simp] theorem State.raiseAll_now (s : State) (e : Option Event) : (s.raiseAll e).now = s.now := by
  cases e <;> rfl
@[simp] theorem State.raiseAll_frameOut (s : State) (e : Option Event) : (s.raiseAll e).frameOut = s.frameOut := by
  cases e <;> rfl
@[simp] theorem State.raiseAll_running (s : State) (e : Option Event) : (s.raiseAll e).running = s.running := by
  cases e <;> rfl
@[simp] theorem State.raiseAll_response (s : State) (e : Option Event) : (s.raiseAll e).response = s.response := by
  cases e <;> rfl
@[simp] theorem State.raiseAll_fault (s : State) (e : Option Event) : (s.raiseAll e).fault = s.fault := by
  cases e <;> rfl
@[simp] theorem State.raiseAll_refused (s : State) (e : Option Event) : (s.raiseAll e).refused = s.refused := by
  cases e <;> rfl
@[simp] theorem State.raiseAll_agenda (s : State) (e : Option Event) : (s.raiseAll e).agenda = s.agenda := by
  cases e <;> rfl
@[simp] theorem State.raiseAll_endless (s : State) (e : Option Event) : (s.raiseAll e).endless = s.endless := by
  cases e <;> rfl
@[simp] theorem State.raiseAll_draws (s : State) (e : Option Event) : (s.raiseAll e).draws = s.draws := by
  cases e <;> rfl
@[simp] theorem State.raiseAll_trace (s : State) (e : Option Event) : (s.raiseAll e).trace = s.trace ++ e.toList := by
  cases e <;> simp [State.raiseAll]

/-! takeAct: the schedule alone. -/

@[simp] theorem State.takeAct_P (s : State) : s.takeAct.P = s.P := by
  unfold State.takeAct; split <;> rfl
@[simp] theorem State.takeAct_T (s : State) : s.takeAct.T = s.T := by
  unfold State.takeAct; split <;> rfl
@[simp] theorem State.takeAct_C (s : State) : s.takeAct.C = s.C := by
  unfold State.takeAct; split <;> rfl
@[simp] theorem State.takeAct_rxq (s : State) : s.takeAct.rxq = s.rxq := by
  unfold State.takeAct; split <;> rfl
@[simp] theorem State.takeAct_txq (s : State) : s.takeAct.txq = s.txq := by
  unfold State.takeAct; split <;> rfl
@[simp] theorem State.takeAct_now (s : State) : s.takeAct.now = s.now := by
  unfold State.takeAct; split <;> rfl
@[simp] theorem State.takeAct_frameOut (s : State) : s.takeAct.frameOut = s.frameOut := by
  unfold State.takeAct; split <;> rfl
@[simp] theorem State.takeAct_running (s : State) : s.takeAct.running = s.running := by
  unfold State.takeAct; split <;> rfl
@[simp] theorem State.takeAct_response (s : State) : s.takeAct.response = s.response := by
  unfold State.takeAct; split <;> rfl
@[simp] theorem State.takeAct_fault (s : State) : s.takeAct.fault = s.fault := by
  unfold State.takeAct; split <;> rfl
@[simp] theorem State.takeAct_refused (s : State) : s.takeAct.refused = s.refused := by
  unfold State.takeAct; split <;> rfl
@[simp] theorem State.takeAct_draws (s : State) : s.takeAct.draws = s.draws := by
  unfold State.takeAct; split <;> rfl
@[simp] theorem State.takeAct_trace (s : State) : s.takeAct.trace = s.trace := by
  unfold State.takeAct; split <;> rfl

/-! The schedule: its next act, and what is left of it, in each of its forms. -/

theorem State.nextAct_agenda {s : State} {e : Stimulus} {es : List Stimulus} (h : s.agenda = e :: es) : s.nextAct = e := by
  simp only [State.nextAct, h]
theorem State.takeAct_of_agenda {s : State} {e : Stimulus} {es : List Stimulus} (h : s.agenda = e :: es) :
    s.takeAct = { s with agenda := es } := by
  simp only [State.takeAct, h]
theorem State.nextAct_cycle {s : State} {e : Stimulus} {es : List Stimulus} (h : s.agenda = []) (hc : s.endless = .cycle e es) :
    s.nextAct = e := by
  simp only [State.nextAct, h, hc]
theorem State.takeAct_of_cycle {s : State} {e : Stimulus} {es : List Stimulus} (h : s.agenda = []) (hc : s.endless = .cycle e es) :
    s.takeAct = { s with agenda := es } := by
  simp only [State.takeAct, h, hc]
theorem State.nextAct_free {s : State} {n : Nat} (h : s.agenda = []) (hc : s.endless = .free n) : s.nextAct = Config.freeAct n := by
  simp only [State.nextAct, h, hc]
theorem State.takeAct_of_free {s : State} {n : Nat} (h : s.agenda = []) (hc : s.endless = .free n) :
    s.takeAct = { s with endless := .free (n + 1) } := by
  simp only [State.takeAct, h, hc]

end Sys2Proof.Machine
end

