-- ==== Sys2Proof/Laws/Frames.lean ====
section
/-! SUPPORT. What consuming a frame and feeding a byte can do. -/

namespace Sys2Proof.Machine

@[simp] theorem readByte_cons {s : State} {b : Byte} {bs : List Byte} (h : s.rxq = b :: bs) :
    s.readByte = .ok (b, { s with rxq := bs }) := by
  simp [State.readByte, h]

theorem avail_eq_zero {s : State} : s.avail = 0 ↔ s.rxq = [] := by simp [State.avail]

/-- `Consume` runs the meaning of the frame's row. -/
theorem consume_eq_exec (f : Frame) (s : State) : consume f s = exec (Instr.ofFrame f) s := by
  obtain ⟨kind, len, payload⟩ := f
  cases kind with
  | config => rfl
  | report => rcases payload with _ | ⟨b0, _ | ⟨b1, _ | ⟨b2, _ | ⟨b3, _ | ⟨b4, more⟩⟩⟩⟩⟩ <;> rfl

theorem ofNat_length_of_wellFormed {f : Frame} (h : f.WellFormed) : BitVec.ofNat 16 f.payload.length = f.length := by
  rw [← h.1, BitVec.ofNat_toNat, BitVec.setWidth_eq]

/-- A consumed frame is on FRAME_OUT, acts on unit C by its row, and raises at most one event; nothing else changes (R166 to R170). -/
theorem consume_next (f : Frame) (s : State) (h : f.WellFormed) :
    ∃ tr : List Event, tr.length ≤ 1 ∧
      consume f s = .next { s with frameOut := some f, C := consumerAfter s.C s.now f, trace := s.trace ++ tr } := by
  have hf : ∀ a, f.kind = a → frameOf a f.payload = f := by
    rintro _ rfl
    simp [frameOf, ofNat_length_of_wellFormed h]
  obtain ⟨kind, len, payload⟩ := f
  cases kind with
  | config => exact ⟨[], by simp, by simp [consume, consumerAfter, execConfigFrame, hf _ rfl, State.emit, State.refreshLast]⟩
  | report =>
    simp only [consume, consumerAfter]
    split
    · refine ⟨[], by simp, ?_⟩
      simp [execDistanceReport, u32le_le32, hf _ rfl, State.emit, State.newReading]
    · next hp =>
      refine ⟨[.cReportBadLen (BitVec.ofNat 16 payload.length)], by simp, ?_⟩
      simp only [execReportFrame, hf _ rfl, State.decodeReport]
      rfl

/-- A byte that completes no frame changes unit P and at most one event; one that does is consumed in the same action. -/
theorem feedByte_next (b : Byte) (s : State) (h : s.P.Inv) :
    ∃ tr : List Event, tr.length ≤ 1 ∧
      feedByte b s = .next
        { s with
          P := (parserStep s.P b).1
          frameOut := (parserStep s.P b).2.2.or s.frameOut
          C := (parserStep s.P b).2.2.elim s.C (consumerAfter s.C s.now)
          trace := s.trace ++ tr } := by
  unfold feedByte
  simp only [h.not_readsPast, Bool.false_eq_true, if_false]
  cases hp : (parserStep s.P b).2.2 with
  | none =>
    refine ⟨(parserStep s.P b).2.1.toList, by cases (parserStep s.P b).2.1 <;> simp, ?_⟩
    rcases hr : parserStep s.P b with ⟨p, ev, fo⟩
    rw [hr] at hp
    subst hp
    cases ev <;> simp [State.raiseAll, State.raise]
  | some f =>
    obtain ⟨hs, -, rfl, hr⟩ := parserStep_emits hp
    obtain ⟨tr, hl, hc⟩ := consume_next s.P.frame { s with P := { s.P with state := .wh1 } } (h.frame_wellFormed hs)
    exact ⟨tr, hl, by simp [hr, State.raiseAll, hc]⟩

/-- The events of a byte that completes no frame are exactly the parser step's. -/
theorem feedByte_of_none {b : Byte} {s : State} (h : s.P.Inv) (hn : (parserStep s.P b).2.2 = none) :
    feedByte b s = .next { s with P := (parserStep s.P b).1, trace := s.trace ++ (parserStep s.P b).2.1.toList } := by
  unfold feedByte
  simp only [h.not_readsPast, Bool.false_eq_true, if_false]
  rcases hr : parserStep s.P b with ⟨p, ev, fo⟩
  rw [hr] at hn
  subst hn
  cases ev <;> simp [State.raiseAll, State.raise]

end Sys2Proof.Machine
end

