-- ==== Sys2Proof/Laws/Exchange.lean ====
section
/-! SUPPORT. What the actions of an exchange can do. -/

namespace Sys2Proof.Machine

/-- The seven operations that exchange are one operation with their own return (R149 to R157). -/
theorem exec_of_request {i : Instr} {op : Half} {args : List Byte} {tout : Millis} (h : i.request = some (op, args, tout))
    (s : State) : exec i s = exchangeOp i op args tout (fun t => t.returned i) s := by
  cases i <;> simp only [Instr.request, Option.some.injEq, Prod.mk.injEq, reduceCtorEq] at h
  all_goals
    obtain ⟨rfl, rfl, rfl⟩ := h
    simp only [exec, execEnterCfg, execExitCfg, execSetPeriod, execSetMinDist, execSetMaxDist, execFactoryReset, execExchange]
    congr 1
    funext t
    simp [State.returned, State.returnOk, State.returnExchange, State.respond, responseOf, cfgModeAfter, State.setCfgModeIfOk,
      State.setCfgMode] <;> split <;> simp_all

/-- With the port free, admission refuses or starts (R130, R132). -/
theorem exchangeOp_free {i : Instr} {op : Half} {args : List Byte} {tout : Millis} {ret : State → State} {s : State}
    (h : s.Free) :
    exchangeOp i op args tout ret s =
      if args.length > Config.txArgMax then .next (s.refuse .argLength) else .next (s.startExchange i op args tout) := by
  simp [exchangeOp, State.busyWithOther, h.1, h.2]

theorem busyWithOther_self {s : State} {i : Instr} (h : s.running = some i) : s.busyWithOther i = false := by
  simp [State.busyWithOther, h]

/-- With the operation itself in flight, T.PHASE says which action comes next. -/
theorem exchangeOp_running {i : Instr} {op : Half} {args : List Byte} {tout : Millis} {ret : State → State} {s : State}
    (h : s.running = some i) (hp : s.T.phase ≠ .idle) :
    exchangeOp i op args tout ret s =
      match s.T.phase with
      | .idle => .next s
      | .drain => drainAction s
      | .send => sendAction s
      | .scan => returning ret (scanPass s) := by
  unfold exchangeOp
  rw [busyWithOther_self h]
  cases hq : s.T.phase <;> simp_all

/-- What the actions of a scan have in common: only unit T's scan registers, RXQ and the trace change, at most one event is raised,
and the request registers and the deadline stay (R138 to R148). -/
abbrev ScanChange (s t : State) (tr : List Event) : Prop :=
  t = { s with T := t.T, rxq := t.rxq, trace := s.trace ++ tr } ∧ tr.length ≤ 1 ∧ (t.T.phase = .scan ∨ t.T.phase = .idle) ∧
    t.T.op = s.T.op ∧ t.T.args = s.T.args ∧ t.T.tout = s.T.tout ∧ t.T.t0 = s.T.t0

/-- The byte of a scan pass. -/
theorem scanByte_next {b : Byte} {s t : State} (hp : s.T.phase = .scan) (h : scanByte b s = .next t) :
    t.rxq = s.rxq ∧ ∃ tr, ScanChange s t tr := by
  unfold scanByte at h
  have quiet : ∀ u : Transactor, t = { s with T := u } → u.phase = .scan ∨ u.phase = .idle → u.op = s.T.op →
      u.args = s.T.args → u.tout = s.T.tout → u.t0 = s.T.t0 → t.rxq = s.rxq ∧ ∃ tr, ScanChange s t tr := by
    rintro u rfl h1 h2 h3 h4 h5
    exact ⟨rfl, [], by simp, by simp, h1, h2, h3, h4, h5⟩
  have loud : ∀ (u : Transactor) (e : Event), t = { s with T := u }.raise e → u.phase = .scan → u.op = s.T.op →
      u.args = s.T.args → u.tout = s.T.tout → u.t0 = s.T.t0 → t.rxq = s.rxq ∧ ∃ tr, ScanChange s t tr := by
    rintro u e rfl h1 h2 h3 h4 h5
    exact ⟨rfl, [e], rfl, by simp, .inl h1, h2, h3, h4, h5⟩
  cases hs : s.T.pos <;> simp only [hs] at h
  case pl =>
    unfold scanPayload at h
    simp only at h
    split at h
    · cases h
    · split at h
      · simp only [execConfigAck, scanStore, hp] at h
        split at h
        · cases h; exact quiet _ rfl (.inr rfl) rfl rfl rfl rfl
        · cases h; exact loud _ _ rfl rfl rfl rfl rfl rfl
      · cases h; exact quiet _ rfl (.inl hp) rfl rfl rfl rfl
  case h0 => cases h; exact quiet _ rfl (.inl hp) rfl rfl rfl rfl
  case l0 => cases h; exact quiet _ rfl (.inl hp) rfl rfl rfl rfl
  case l1 =>
    simp only [scanLenHigh] at h
    split at h
    · cases h; exact loud _ _ rfl hp rfl rfl rfl rfl
    · cases h; exact quiet _ rfl (.inl hp) rfl rfl rfl rfl
  all_goals
    simp only [scanHeader] at h
    split at h
    · cases h; exact quiet _ rfl (.inl hp) rfl rfl rfl rfl
    · cases h; exact loud _ _ rfl hp rfl rfl rfl rfl

/-- A scan pass takes at most the oldest byte; it ends in IDLE or stays in SCAN. -/
theorem scanPass_next {s t : State} (hp : s.T.phase = .scan) (h : scanPass s = .next t) :
    (t.rxq = s.rxq ∨ ∃ b, s.rxq = b :: t.rxq) ∧ ∃ tr, ScanChange s t tr := by
  unfold scanPass at h
  split at h
  · cases h
    exact ⟨.inl rfl, [.tTimeout], rfl, by simp, .inr rfl, rfl, rfl, rfl, rfl⟩
  · split at h
    · cases h
      exact ⟨.inl rfl, [], by simp, by simp, .inl hp, rfl, rfl, rfl, rfl⟩
    · next ha =>
      cases hq : s.rxq with
      | nil => exact absurd (avail_eq_zero.2 hq) ha
      | cons b bs =>
        rw [readByte_cons hq] at h
        obtain ⟨hr, tr, hc, hrest⟩ := scanByte_next (s := { s with rxq := bs }) hp h
        exact ⟨.inr ⟨b, by rw [hr]⟩, tr, hc, hrest⟩

/-- What an action of an exchange in flight can do: a drain check, the send, or a scan pass that goes on or returns. -/
theorem exchangeOp_next {i : Instr} {op : Half} {args : List Byte} {tout : Millis} {ret : State → State} {s t : State}
    (h : exchangeOp i op args tout ret s = .next t) :
    (s.T.phase = .idle ∧ s.busyWithOther i = false ∧
      (t = s.refuse .argLength ∨ args.length ≤ Config.txArgMax ∧ t = s.startExchange i op args tout)) ∨
    (s.running = some i ∧ s.T.phase = .drain ∧
      (s.rxq = [] ∧ t = { s with T := { s.T with phase := .send } } ∨ ∃ b bs, s.rxq = b :: bs ∧ t = { s with rxq := bs })) ∨
    (s.running = some i ∧ s.T.phase = .send ∧ t = (s.writeBytes (encodeRequest s.T.op s.T.args)).startScan) ∨
    (s.running = some i ∧ s.T.phase = .scan ∧
      ∃ u, scanPass s = .next u ∧ (u.T.phase = .idle ∧ t = ret u ∨ u.T.phase = .scan ∧ t = u)) := by
  unfold exchangeOp at h
  split at h
  · cases h
  · next hb =>
    split at h
    · next hp =>
      refine .inl ⟨hp, by simpa using hb, ?_⟩
      split at h
      · cases h; exact .inl rfl
      · next hl => cases h; exact .inr ⟨by omega, rfl⟩
    · next hp =>
      split at h
      · next hr =>
        refine .inr (.inl ⟨hr, hp, ?_⟩)
        unfold drainAction at h
        split at h
        · next ha => cases h; exact .inl ⟨avail_eq_zero.1 ha, rfl⟩
        · next ha =>
          cases hq : s.rxq with
          | nil => exact absurd (avail_eq_zero.2 hq) ha
          | cons b bs => rw [readByte_cons hq] at h; cases h; exact .inr ⟨b, bs, rfl, rfl⟩
      · cases h
    · next hp =>
      split at h
      · next hr => cases h; exact .inr (.inr (.inl ⟨hr, hp, rfl⟩))
      · cases h
    · next hp =>
      split at h
      · next hr =>
        refine .inr (.inr (.inr ⟨hr, hp, ?_⟩))
        cases hu : scanPass s with
        | next u =>
          simp only [hu, returning] at h
          obtain ⟨-, tr, -, -, hph, -⟩ := scanPass_next hp hu
          split at h
          · next hi => cases h; exact ⟨_, rfl, .inl ⟨hi, rfl⟩⟩
          · next hi =>
            cases h
            exact ⟨_, rfl, .inr ⟨hph.resolve_right hi, rfl⟩⟩
        | fault f => simp only [hu, returning] at h; cases h
        | refused r => simp only [hu, returning] at h; cases h
      · cases h

end Sys2Proof.Machine
end

