-- ==== Sys2Proof/Laws/PerInstr.lean ====
section
/-! SUPPORT. What holds of every instruction as syntax, one lemma for each constructor. -/

namespace Sys2Proof.Laws.WireForm

/-- The wire form of a well-formed instruction: at most 260 bytes (R56, R70); none at all exactly for an operation with no wire
encoding (R87); and what the wire keeps of it is well formed again. -/
def Statement (i : Instr) : Prop :=
  i.wellFormed = true → (encode i).length ≤ 260 ∧ (i.port = none ↔ encode i = []) ∧ i.onWire.wellFormed = true

theorem enterCfg (timeout : Millis) : Statement (.enterCfg timeout) := fun _ =>
  ⟨by simp [encode, encodeRequest], by simp [Instr.port, encode, encodeRequest, hdr], rfl⟩

theorem exitCfg (timeout : Millis) : Statement (.exitCfg timeout) := fun _ =>
  ⟨by simp [encode, encodeRequest], by simp [Instr.port, encode, encodeRequest, hdr], rfl⟩

theorem setPeriod (period : Half) (timeout : Millis) : Statement (.setPeriod period timeout) := fun _ =>
  ⟨by simp [encode, encodeRequest], by simp [Instr.port, encode, encodeRequest, hdr], rfl⟩

theorem setMinDist (mm : Half) (timeout : Millis) : Statement (.setMinDist mm timeout) := fun _ =>
  ⟨by simp [encode, encodeRequest], by simp [Instr.port, encode, encodeRequest, hdr], rfl⟩

theorem setMaxDist (mm : Half) (timeout : Millis) : Statement (.setMaxDist mm timeout) := fun _ =>
  ⟨by simp [encode, encodeRequest], by simp [Instr.port, encode, encodeRequest, hdr], rfl⟩

theorem factoryReset (timeout : Millis) : Statement (.factoryReset timeout) := fun _ =>
  ⟨by simp [encode, encodeRequest], by simp [Instr.port, encode, encodeRequest, hdr], rfl⟩

theorem exchange (op : Half) (args : List Byte) (timeout : Millis) : Statement (.exchange op args timeout) := by
  intro h
  simp only [Instr.wellFormed, decide_eq_true_eq] at h
  refine ⟨?_, by simp [Instr.port, encode, encodeRequest, hdr], ?_⟩
  · simp [encode, encodeRequest, Config.txArgMax] at *; omega
  · simp only [Instr.onWire, Instr.ofRequest]
    split
    · split
      · rfl
      · split <;> rfl
    · split
      · rfl
      · split
        · rfl
        · split
          · rfl
          · split <;> rfl
    · exact decide_eq_true h

theorem readVersion : Statement .readVersion := fun _ => ⟨by decide, by decide, rfl⟩

theorem readPeriod : Statement .readPeriod := fun _ => ⟨by decide, by decide, rfl⟩

theorem readMinDist : Statement .readMinDist := fun _ => ⟨by decide, by decide, rfl⟩

theorem readMaxDist : Statement .readMaxDist := fun _ => ⟨by decide, by decide, rfl⟩

theorem update : Statement .update := fun _ => ⟨by decide, by decide, rfl⟩

theorem hasNewData : Statement .hasNewData := fun _ => ⟨by decide, by decide, rfl⟩

theorem getMm : Statement .getMm := fun _ => ⟨by decide, by decide, rfl⟩

theorem getM : Statement .getM := fun _ => ⟨by decide, by decide, rfl⟩

theorem isConnected : Statement .isConnected := fun _ => ⟨by decide, by decide, rfl⟩

theorem reportFrame (payload : List Byte) : Statement (.reportFrame payload) := by
  intro h
  refine ⟨?_, by simp [Instr.port, encode, encodeFrame, hdr], h⟩
  simp only [Instr.wellFormed, decide_eq_true_eq, Config.maxLen] at h
  simp [encode, encodeFrame]; omega

theorem distanceReport (d : Word) : Statement (.distanceReport d) := fun _ =>
  ⟨by simp [encode, encodeFrame], by simp [Instr.port, encode, encodeFrame, hdr], rfl⟩

theorem configFrame (payload : List Byte) : Statement (.configFrame payload) := by
  intro h
  refine ⟨?_, by simp [Instr.port, encode, encodeFrame, hdr], h⟩
  simp only [Instr.wellFormed, decide_eq_true_eq, Config.maxLen] at h
  simp [encode, encodeFrame]; omega

theorem configAck (echo : Half) (rest : List Byte) : Statement (.configAck echo rest) := by
  intro h
  refine ⟨?_, by simp [Instr.port, encode, encodeAck, hdr], h⟩
  simp only [Instr.wellFormed, decide_eq_true_eq, Config.txBufCap] at h
  simp [encode, encodeAck]; omega

end Sys2Proof.Laws.WireForm
end

