-- ==== Sys2Proof/Laws/Step.lean ====
section
/-! SUPPORT. What UPDATE, an instruction, and a step can do: each said once, for every state. -/

namespace Sys2Proof.Machine

/-- What consuming any frame leaves alone. -/
theorem consume_change (f : Frame) (s : State) :
    ∃ t tr, consume f s = .next t ∧ t = { s with C := t.C, frameOut := t.frameOut, trace := s.trace ++ tr } ∧
      tr.length ≤ 1 ∧ t.C.cfgMode = s.C.cfgMode := by
  obtain ⟨kind, len, payload⟩ := f
  cases kind with
  | config => exact ⟨_, [], rfl, by simp [State.emit, State.refreshLast], by simp, rfl⟩
  | report =>
    simp only [consume]
    split
    · exact ⟨_, [], rfl, by simp [State.emit, State.newReading], by simp, rfl⟩
    · next hp =>
      refine ⟨_, [.cReportBadLen (BitVec.ofNat 16 payload.length)], rfl, ?_, by simp, ?_⟩ <;>
        (simp only [State.decodeReport]; rfl)

/-- What a byte through the parser and the consumer leaves alone, in any state. -/
theorem feedByte_change {b : Byte} {s t : State} (h : feedByte b s = .next t) :
    t.P = (parserStep s.P b).1 ∧
    ∃ tr, t = { s with P := t.P, C := t.C, frameOut := t.frameOut, trace := s.trace ++ tr } ∧ tr.length ≤ 1 ∧
      t.C.cfgMode = s.C.cfgMode := by
  unfold feedByte at h
  split at h
  · cases h
  · rcases hr : parserStep s.P b with ⟨p, ev, fo⟩
    cases fo with
    | none =>
      simp only [hr] at h
      cases h
      exact ⟨by simp, ev.toList, by cases ev <;> simp [State.raiseAll, State.raise], by cases ev <;> simp, by simp⟩
    | some f =>
      obtain ⟨-, -, rfl, he⟩ := parserStep_emits (p := s.P) (b := b) (f := f) (by rw [hr])
      rw [he] at hr
      cases hr
      simp only [he, State.raiseAll] at h
      obtain ⟨u, tr, hu, ht, hl, hc⟩ := consume_change s.P.frame { s with P := { s.P with state := .wh1 } }
      rw [hu] at h
      cases h
      refine ⟨by rw [ht], tr, ?_, hl, hc⟩
      rw [ht]

/-- A pass of UPDATE's loop: it returns, or takes the oldest byte. -/
theorem updateAction_next {s t : State} (h : updateAction s = .next t) :
    (s.rxq = [] ∧ t = s.respond .unit) ∨
    (∃ b bs, s.rxq = b :: bs ∧ feedByte b { s with rxq := bs, running := some .update } = .next t) := by
  unfold updateAction at h
  split at h
  · next ha => cases h; exact .inl ⟨avail_eq_zero.1 ha, rfl⟩
  · next ha =>
    cases hq : s.rxq with
    | nil => exact absurd (avail_eq_zero.2 hq) ha
    | cons b bs => rw [readByte_cons hq] at h; exact .inr ⟨b, bs, rfl, h⟩

theorem whenFree_next {s t u : State} (h : s.whenFree u = .next t) : s.running = none ∧ t = u := by
  unfold State.whenFree at h
  split at h
  · cases h
  · next hr => cases h; exact ⟨by simpa using hr, rfl⟩

theorem execUpdate_next {s t : State} (h : exec .update s = .next t) :
    s.T.phase = .idle ∧ s.busyWithOther .update = false ∧ updateAction s = .next t := by
  simp only [exec, execUpdate] at h
  split at h
  · cases h
  · next hp =>
    split at h
    · cases h
    · next hb => exact ⟨by simpa using hp, by simpa using hb, h⟩

/-- A host operation is one of the seven exchanges, a refused read-back, a query, or UPDATE. -/
theorem exec_host_next {i : Instr} {s t : State} (hh : i.isHostOp = true) (h : exec i s = .next t) :
    (∃ op args tout, i.request = some (op, args, tout) ∧ exchangeOp i op args tout (fun u => u.returned i) s = .next t) ∨
    (i.request = none ∧ i ≠ .update ∧ s.running = none ∧
      (t = s.refuse .readback ∨ ∃ n v, t = { s with C := { s.C with new := n }, running := none, response := some v })) ∨
    (i = .update ∧ s.T.phase = .idle ∧ s.busyWithOther .update = false ∧ updateAction s = .next t) := by
  cases hq : i.request with
  | some r =>
    obtain ⟨op, args, tout⟩ := r
    exact .inl ⟨op, args, tout, rfl, by rw [← exec_of_request hq]; exact h⟩
  | none =>
    refine .inr ?_
    cases i <;> simp only [Instr.request, Instr.isHostOp, reduceCtorEq] at hq hh
    case update => exact .inr ⟨rfl, execUpdate_next h⟩
    case readVersion => obtain ⟨h1, h2⟩ := whenFree_next h; exact .inl ⟨rfl, by simp, h1, .inl h2⟩
    case readPeriod => obtain ⟨h1, h2⟩ := whenFree_next h; exact .inl ⟨rfl, by simp, h1, .inl h2⟩
    case readMinDist => obtain ⟨h1, h2⟩ := whenFree_next h; exact .inl ⟨rfl, by simp, h1, .inl h2⟩
    case readMaxDist => obtain ⟨h1, h2⟩ := whenFree_next h; exact .inl ⟨rfl, by simp, h1, .inl h2⟩
    case hasNewData => obtain ⟨h1, h2⟩ := whenFree_next h; exact .inl ⟨rfl, by simp, h1, .inr ⟨false, _, h2⟩⟩
    case getMm => obtain ⟨h1, h2⟩ := whenFree_next h; exact .inl ⟨rfl, by simp, h1, .inr ⟨s.C.new, _, h2⟩⟩
    case getM => obtain ⟨h1, h2⟩ := whenFree_next h; exact .inl ⟨rfl, by simp, h1, .inr ⟨s.C.new, _, h2⟩⟩
    case isConnected => obtain ⟨h1, h2⟩ := whenFree_next h; exact .inl ⟨rfl, by simp, h1, .inr ⟨s.C.new, _, h2⟩⟩

/-- No host operation gives up for want of a meaning. -/
theorem exec_host_not_refused {i : Instr} {s : State} {r : Refusal} : exec i s ≠ .refused r := by
  have hw : ∀ {u : State}, s.whenFree u ≠ .refused r := by intro u; unfold State.whenFree; split <;> simp
  have hcons : ∀ f (u : State), consume f u ≠ .refused r := by
    intro f u
    obtain ⟨t, tr, ht, -⟩ := consume_change f u
    simp [ht]
  have hscan : ∀ u : State, scanPass u ≠ .refused r := by
    intro u h
    unfold scanPass at h
    split at h
    · cases h
    · split at h
      · cases h
      · split at h
        · cases h
        · unfold scanByte at h
          split at h <;> try cases h
          unfold scanPayload at h
          simp only at h
          split at h
          · cases h
          · split at h
            · unfold execConfigAck at h
              split at h
              · split at h <;> cases h
              · cases h
            · cases h
  intro h
  cases hq : i.request with
  | some q =>
    obtain ⟨op, args, tout⟩ := q
    rw [exec_of_request hq] at h
    unfold exchangeOp at h
    split at h
    · cases h
    · split at h
      · split at h <;> cases h
      · split at h
        · unfold drainAction at h
          split at h
          · cases h
          · split at h <;> cases h
        · cases h
      · split at h <;> cases h
      · split at h
        · cases hs : scanPass s with
          | next u => rw [hs] at h; simp only [returning] at h; split at h <;> cases h
          | fault f => rw [hs] at h; cases h
          | refused r' => rw [hs] at h; cases h; exact hscan s hs
        · cases h
  | none =>
    cases i <;> simp only [Instr.request, reduceCtorEq] at hq
    case update =>
      simp only [exec, execUpdate] at h
      split at h
      · cases h
      · split at h
        · cases h
        · unfold updateAction at h
          split at h
          · cases h
          · split at h
            · cases h
            · unfold feedByte at h
              split at h
              · cases h
              · split at h
                · cases h
                · exact hcons _ _ h
    case reportFrame => cases h
    case distanceReport => cases h
    case configFrame => cases h
    case configAck =>
      simp only [exec, execConfigAck] at h
      split at h
      · split at h <;> cases h
      · cases h
    all_goals exact hw h

/-- The host port takes a request exactly when no operation runs (R190). -/
theorem requestFault_eq_none {s : State} {i : Instr} : s.requestFault i = none ↔ s.running = none := by
  unfold State.requestFault
  cases s.running with
  | none => simp
  | some j => simp only [Option.isNone_some, Bool.false_eq_true, if_false, reduceCtorEq, iff_false]; split <;> simp

/-- The schedule alone changes when its next act is taken. -/
theorem takeAct_eq (s : State) : ∃ es en, s.takeAct = { s with agenda := es, endless := en } := by
  unfold State.takeAct
  split <;> exact ⟨_, _, rfl⟩

/-- A step of a run with no fault marked is the schedule's next act on a cleared FRAME_OUT. -/
theorem step_of_unfaulted {s : State} (h : s.fault = none) : step s = act s.nextAct s.takeAct.clearFrameOut := by
  simp only [step, h, stepUnfaulted]

/-- What a step can do: the next act is taken off the schedule, and it is one of these. -/
theorem step_next {s t : State} (h : step s = .next t) :
    s.fault = none ∧ ∃ es en, s.takeAct = { s with agenda := es, endless := en } ∧
    ((∃ bytes, s.nextAct = .rx bytes ∧ t = { s with agenda := es, endless := en, frameOut := none, rxq := s.rxq ++ bytes }) ∨
     (∃ c, s.nextAct = .clk c ∧ t = { s with agenda := es, endless := en, frameOut := none, now := c }) ∨
     (∃ n, s.nextAct = .tx n ∧ t = { s with agenda := es, endless := en, frameOut := none, txq := s.txq.drop n }) ∨
     (s.nextAct = .reset ∧ t = { s with agenda := es, endless := en }.resetBlock) ∨
     (s.nextAct = .block ∧ s.running = none ∧ t = { s with agenda := es, endless := en, frameOut := none }) ∨
     (∃ i, s.nextAct = .call i ∧ i.isHostOp = false ∧ t = { s with agenda := es, endless := en, frameOut := none }) ∨
     (∃ i, s.nextAct = .call i ∧ i.isHostOp = true ∧ s.running = none ∧
       exec i { s with agenda := es, endless := en, frameOut := none, response := none } = .next t) ∨
     (∃ i, s.nextAct = .block ∧ s.running = some i ∧
       exec i { s with agenda := es, endless := en, frameOut := none } = .next t)) := by
  have hf : s.fault = none := by
    cases hf : s.fault with
    | none => rfl
    | some r => rw [step, hf] at h; cases h
  obtain ⟨es, en, he⟩ := takeAct_eq s
  refine ⟨hf, es, en, he, ?_⟩
  rw [step_of_unfaulted hf, he] at h
  cases ha : s.nextAct with
  | rx bytes => rw [ha] at h; cases h; exact .inl ⟨bytes, rfl, rfl⟩
  | clk c => rw [ha] at h; cases h; exact .inr (.inl ⟨c, rfl, rfl⟩)
  | tx n => rw [ha] at h; cases h; exact .inr (.inr (.inl ⟨n, rfl, rfl⟩))
  | reset => rw [ha] at h; cases h; exact .inr (.inr (.inr (.inl ⟨rfl, rfl⟩)))
  | block =>
    rw [ha] at h
    simp only [act, blockTurn] at h
    split at h
    · next i hr => exact .inr (.inr (.inr (.inr (.inr (.inr (.inr ⟨i, rfl, hr, h⟩))))))
    · next hr => cases h; exact .inr (.inr (.inr (.inr (.inl ⟨rfl, hr, rfl⟩))))
  | call i =>
    rw [ha] at h
    simp only [act, hostRequest] at h
    split at h
    · next hh =>
      split at h
      · cases h
      · next hc => exact .inr (.inr (.inr (.inr (.inr (.inr (.inl ⟨i, rfl, hh, requestFault_eq_none.1 hc, h⟩))))))
    · next hh => cases h; exact .inr (.inr (.inr (.inr (.inr (.inl ⟨i, rfl, by simpa using hh, rfl⟩)))))

end Sys2Proof.Machine
end

