-- ==== Sys2Proof/Tests/Slice0.lean ====
section
/-! SUPPORT. Tests of the model: expected values are the spec's (95_test_vectors.md, or the rule named). Each test runs one step. The
witnesses at the end meet the hypotheses of each statement together. -/

namespace Sys2Proof.Tests

open Sys2Proof.Machine

/-! ## Helpers -/

/-- The next state, if there is one. -/
def after : Host.Outcome State Fault Refusal → Option State
  | .next t => some t
  | .fault _ => none
  | .refused _ => none

/-- The fault, if there is one. -/
def faultOf : Host.Outcome State Fault Refusal → Option Fault
  | .next _ => none
  | .fault f => some f
  | .refused _ => none

/-- What a port reads, if it takes the bytes. -/
def readAs (port : Port) (bs : List Byte) : Option (Instr × List Byte) :=
  match decode port bs with
  | .ok r => some r
  | .error _ => none

/-- Why a port refuses the bytes, if it does. -/
def refusedAs (port : Port) (bs : List Byte) : Option DecodeError :=
  match decode port bs with
  | .ok _ => none
  | .error e => some e

/-- The reset state with a unit C whose registers have been written. -/
def quiet : State :=
  { State.reset with C := { mmBits := 0x449A5000, obsT := 1000, lastT := 1000, new := true, cfgMode := false } }

/-- Operation `i` is in phase `ph` with its request registers written. -/
def inPhase (i : Instr) (ph : Phase) (op : Half) (args : List Byte) : State :=
  { quiet with T := { quiet.T with phase := ph, op := op, args := args, tout := 1000 }, running := some i }

/-- ENTER_CFG scans, `elapsed` ms after the scan start, at position `pos`, with `len`, `idx` and stored bytes, and `rxq` waiting. -/
def scanning (elapsedMs : Millis) (pos : Pos) (len : Half) (idx : Byte) (buf : Memory) (rxq : List Byte) : State :=
  { quiet with
    T := { quiet.T with phase := .scan, pos := pos, op := 0x00FF, args := [1, 0], tout := 1000, t0 := 0, len := len, idx := idx, buf := buf }
    now := elapsedMs, rxq := rxq, running := some (.enterCfg 1000) }

/-- A parser in the given state. -/
def parserAt (state : PState) (alph : Alphabet) (len : Half) (idx : Byte) (buf : Memory) : Parser :=
  { state := state, alph := alph, len := len, idx := idx, buf := buf }

/-- UPDATE is in flight, the parser is one footer byte short of REP(1234.5), and that byte waits. -/
def lastByte : State :=
  { quiet with P := parserAt .wf4 .report 4 4 [(1, 0x50), (2, 0x9A), (3, 0x44)], rxq := [0xF5], running := some .update, now := 7 }

/-! ## Well-formedness -/

/-- R75, R130: 249 argument bytes are too many. -/
theorem test_illformed_exchange : (Instr.exchange 0x00FF (List.replicate 249 0) 1000).wellFormed = false := by decide +kernel

/-- R92: a report of length 4 is the row DISTANCE_REPORT. -/
theorem test_illformed_report_of_four : (Instr.reportFrame [1, 2, 3, 4]).wellFormed = false := by decide

/-- R70: 251 payload bytes are too many. -/
theorem test_illformed_report_long : (Instr.reportFrame (List.replicate 251 0)).wellFormed = false := by decide +kernel

/-- R70. -/
theorem test_illformed_config_long : (Instr.configFrame (List.replicate 251 0)).wellFormed = false := by decide +kernel

/-- R76: an acknowledgement payload has at most 250 bytes, two of them the opcode. -/
theorem test_illformed_ack_long : (Instr.configAck 0x00FF (List.replicate 249 0)).wellFormed = false := by decide +kernel

/-- R70, R75, R76: the longest of each. -/
theorem test_wellformed_longest :
    (Instr.exchange 0x00FF (List.replicate 248 0) 0).wellFormed = true ∧ (Instr.reportFrame (List.replicate 250 0)).wellFormed = true ∧
    (Instr.configFrame (List.replicate 250 0)).wellFormed = true ∧ (Instr.configAck 0 (List.replicate 248 0)).wellFormed = true := by
  decide +kernel

/-! ## Decoding: words written out from the spec -/

/-- R79 and the vector OV1. -/
theorem test_decode_enterCfg :
    readAs .sent [0xFD, 0xFC, 0xFB, 0xFA, 0x04, 0x00, 0xFF, 0x00, 0x01, 0x00, 0x04, 0x03, 0x02, 0x01] = some (.enterCfg 1000, []) := by
  decide

/-- R79, OV2. -/
theorem test_decode_exitCfg :
    readAs .sent [0xFD, 0xFC, 0xFB, 0xFA, 0x02, 0x00, 0xFE, 0x00, 0x04, 0x03, 0x02, 0x01] = some (.exitCfg 1000, []) := by decide

/-- R79, OV6. -/
theorem test_decode_setPeriod :
    readAs .sent [0xFD, 0xFC, 0xFB, 0xFA, 0x04, 0x00, 0x71, 0x00, 0xE7, 0x03, 0x04, 0x03, 0x02, 0x01] = some (.setPeriod 999 1000, []) := by
  decide

/-- R79, OV9. -/
theorem test_decode_setMinDist :
    readAs .sent [0xFD, 0xFC, 0xFB, 0xFA, 0x04, 0x00, 0x74, 0x00, 0xC8, 0x00, 0x04, 0x03, 0x02, 0x01] = some (.setMinDist 200 1000, []) := by
  decide

/-- R79, OV12. -/
theorem test_decode_setMaxDist :
    readAs .sent [0xFD, 0xFC, 0xFB, 0xFA, 0x04, 0x00, 0x75, 0x00, 0xB8, 0x0B, 0x04, 0x03, 0x02, 0x01] = some (.setMaxDist 3000 1000, []) := by
  decide

/-- R79, OV14. -/
theorem test_decode_factoryReset :
    readAs .sent [0xFD, 0xFC, 0xFB, 0xFA, 0x02, 0x00, 0xA2, 0x00, 0x04, 0x03, 0x02, 0x01] = some (.factoryReset 1000, []) := by decide

/-- TV16: any other opcode is the primitive's. -/
theorem test_decode_exchange :
    readAs .sent [0xFD, 0xFC, 0xFB, 0xFA, 0x02, 0x00, 0x34, 0x12, 0x04, 0x03, 0x02, 0x01] = some (.exchange 0x1234 [] 1000, []) := by decide

/-- CV2. -/
theorem test_decode_reportFrame :
    readAs .background [0xF4, 0xF3, 0xF2, 0xF1, 0x03, 0x00, 0x01, 0x02, 0x03, 0xF8, 0xF7, 0xF6, 0xF5] = some (.reportFrame [1, 2, 3], []) := by
  decide

/-- R85, W10, with a byte after the frame. -/
theorem test_decode_distanceReport :
    readAs .background [0xF4, 0xF3, 0xF2, 0xF1, 0x04, 0x00, 0x00, 0x50, 0x9A, 0x44, 0xF8, 0xF7, 0xF6, 0xF5, 0x99] =
      some (.distanceReport 0x449A5000, [0x99]) := by
  decide

/-- CV3. -/
theorem test_decode_configFrame :
    readAs .background [0xFD, 0xFC, 0xFB, 0xFA, 0x02, 0x00, 0xFF, 0x01, 0x04, 0x03, 0x02, 0x01] = some (.configFrame [0xFF, 0x01], []) := by
  decide

/-- TV1: the footer is left. -/
theorem test_decode_configAck :
    readAs .scan [0xFD, 0xFC, 0xFB, 0xFA, 0x04, 0x00, 0xFF, 0x00, 0x00, 0x00, 0x04, 0x03, 0x02, 0x01] =
      some (.configAck 0x00FF [0, 0], [0x04, 0x03, 0x02, 0x01]) := by
  decide

/-- PV10, PV5, PV9, TV6, TV7, R71: what is refused, by name. -/
theorem test_decode_refusals :
    refusedAs .background [0xF4, 0xFC] = some (.badHeader 1 0xFC) ∧
    refusedAs .background [0x00] = some (.badStart 0x00) ∧
    refusedAs .background [0xF4, 0xF3, 0xF2, 0xF1, 0xFB, 0x00] = some (.lengthOver 251) ∧
    refusedAs .background [0xF4, 0xF3, 0xF2, 0xF1, 0x00, 0x00, 0x04] = some (.badFooter 0 0x04) ∧
    refusedAs .background [0xF4, 0xF3, 0xF2, 0xF1, 0x04] = some .truncated ∧
    refusedAs .scan [0xFD, 0xFC, 0xFB, 0xFA, 0x01, 0x00, 0xFE] = some (.lengthUnder 1) ∧
    refusedAs .scan [0xFD, 0xFC, 0xFB, 0xFA, 0xFB, 0x00] = some (.lengthOver 251) ∧
    refusedAs .sent [0xF4, 0xF3, 0xF2, 0xF1, 0x00, 0x00, 0xF8, 0xF7, 0xF6, 0xF5] = some .notConfig := by
  decide

/-- The opcode table's words as numbers, operand bytes 0 (R91). -/
theorem test_decodeTableWord :
    decodeTableWord 112 0x1020304000000710004FAFBFCFD = some (.setPeriod 0 1000) ∧
    decodeTableWord 96 0x102030400FE0002FAFBFCFD = some (.exitCfg 1000) ∧
    decodeTableWord 112 0xF5F6F7F8000000000004F1F2F3F4 = some (.distanceReport 0) := by
  decide +kernel

/-- R92: eight bytes of an acknowledgement with no footer are read at the scan alone. -/
theorem test_decodeTableWord_ack : decodeTableWord 64 0xFF0002FAFBFCFD = some (.configAck 0x00FF []) := by decide +kernel

/-! ## Placed instructions run in the very next step -/

/-- A request is placed as a call: the exchange of R79's opcode starts. -/
theorem test_place_request :
    (after (step (State.reset.withFetchWord 112 0x1020304000000710004FAFBFCFD))).map (fun t => (t.T.op, t.T.args, t.T.phase)) =
      some (0x0071, [0x32, 0x00], .drain) := by
  decide +kernel

/-- A received frame is placed as its last footer byte: the reading of W1. -/
theorem test_place_frame :
    (after (step (State.reset.withFetchWord 112 0xF5F6F7F8449A50000004F1F2F3F4))).map (fun t => (t.C.mmBits, t.C.new, t.rxq)) =
      some (0x449A5000, true, []) := by
  decide +kernel

/-- An acknowledgement is placed as its last payload byte: TV12's result. -/
theorem test_place_ack :
    (after (step (State.reset.withFetchWord 64 0xFF0002FAFBFCFD))).map (fun t => (t.T.ok, t.T.resp, t.T.phase)) =
      some (true, [0xFF, 0x00], .idle) := by
  decide +kernel

/-! ## The configuration operations -/

/-- OV1: the request of ENTER_CFG is written in phase SEND. -/
theorem test_enterCfg_sends :
    (after (exec (.enterCfg 1000) (inPhase (.enterCfg 1000) .send 0x00FF [1, 0]))).map (fun t => (t.txq, t.T.phase)) =
      some ([0xFD, 0xFC, 0xFB, 0xFA, 0x04, 0x00, 0xFF, 0x00, 0x01, 0x00, 0x04, 0x03, 0x02, 0x01], .scan) := by
  decide

/-- TV12: at 999 ms the last payload byte of a matching acknowledgement succeeds and sets the flag, with no footer. -/
theorem test_enterCfg_succeeds :
    (after (exec (.enterCfg 1000) (scanning 999 .pl 2 1 [(0, 0xFF)] [0x00]))).map
        (fun t => (t.response, t.C.cfgMode, t.running)) =
      some (some (.bool true), true, none) := by
  decide

/-- OV2. -/
theorem test_exitCfg_sends :
    (after (exec (.exitCfg 1000) (inPhase (.exitCfg 1000) .send 0x00FE []))).map (fun t => t.txq) =
      some [0xFD, 0xFC, 0xFB, 0xFA, 0x02, 0x00, 0xFE, 0x00, 0x04, 0x03, 0x02, 0x01] := by
  decide

/-- OV15: EXIT_CFG returning true clears the flag. -/
theorem test_exitCfg_clears :
    (after (exec (.exitCfg 1000)
        { scanning 0 .pl 2 1 [(0, 0xFE)] [0x00] with
          T := { (scanning 0 .pl 2 1 [(0, 0xFE)] [0x00]).T with op := 0x00FE }, running := some (.exitCfg 1000),
          C := { quiet.C with cfgMode := true } })).map (fun t => (t.response, t.C.cfgMode)) =
      some (some (.bool true), false) := by
  decide

/-- W2, W3, OV3, OV7: the period is clamped before it is sent. -/
theorem test_setPeriod_clamps :
    (after (exec (.setPeriod 30 1000) quiet)).map (fun t => (t.T.op, t.T.args)) = some (0x0071, [0x32, 0x00]) ∧
    (after (exec (.setPeriod 49 1000) quiet)).map (fun t => t.T.args) = some [0x32, 0x00] ∧
    (after (exec (.setPeriod 51 1000) quiet)).map (fun t => t.T.args) = some [0x33, 0x00] ∧
    (after (exec (.setPeriod 1001 1000) quiet)).map (fun t => t.T.args) = some [0xE8, 0x03] := by
  decide

/-- P3: at 1000 ms SET_PERIOD fails and C.CFG_MODE keeps its value. -/
theorem test_setPeriod_times_out :
    (after (exec (.setPeriod 30 1000)
        { inPhase (.setPeriod 30 1000) .scan 0x0071 [0x32, 0x00] with now := 1000 })).map
        (fun t => (t.response, t.T.phase, t.trace, t.C == quiet.C)) =
      some (some (.bool false), .idle, [.tTimeout], true) := by
  decide

/-- OV10: no clamp. -/
theorem test_setMinDist_sends :
    (after (exec (.setMinDist 65535 1000) (inPhase (.setMinDist 65535 1000) .send 0x0074 [0xFF, 0xFF]))).map (fun t => t.txq) =
      some [0xFD, 0xFC, 0xFB, 0xFA, 0x04, 0x00, 0x74, 0x00, 0xFF, 0xFF, 0x04, 0x03, 0x02, 0x01] := by
  decide

/-- OV9. -/
theorem test_setMinDist_starts :
    (after (exec (.setMinDist 200 1000) quiet)).map (fun t => (t.T.op, t.T.args)) = some (0x0074, [0xC8, 0x00]) := by decide

/-- OV12. -/
theorem test_setMaxDist_starts :
    (after (exec (.setMaxDist 3000 1000) quiet)).map (fun t => (t.T.op, t.T.args)) = some (0x0075, [0xB8, 0x0B]) := by decide

/-- OV14. -/
theorem test_factoryReset_sends :
    (after (exec (.factoryReset 1000) (inPhase (.factoryReset 1000) .send 0x00A2 []))).map (fun t => t.txq) =
      some [0xFD, 0xFC, 0xFB, 0xFA, 0x02, 0x00, 0xA2, 0x00, 0x04, 0x03, 0x02, 0x01] := by
  decide

/-- TV1, TV2: the drain discards a waiting report byte. -/
theorem test_exchange_drains :
    (after (exec (.exchange 0x00FF [1, 0] 1000)
        { inPhase (.exchange 0x00FF [1, 0] 1000) .drain 0x00FF [1, 0] with rxq := [0xF4, 0xF3] })).map
        (fun t => (t.rxq, t.T.phase, t.P.state)) =
      some ([0xF3], .drain, .wh1) := by
  decide

/-- FV2: nothing is written, the mark is set. -/
theorem test_exchange_refuses :
    (after (exec (.exchange 0x00FF (List.replicate 249 0) 1000) quiet)).map (fun t => (t.refused, t.txq, t.T.phase)) =
      some (some .argLength, [], .idle) := by
  decide +kernel

/-! ## The read-backs -/

/-- FV1. -/
theorem test_readVersion : (after (exec .readVersion quiet)).map (fun t => (t.refused, t.txq)) = some (some .readback, []) := by decide

/-- FV1. -/
theorem test_readPeriod : (after (exec .readPeriod quiet)).map (fun t => (t.refused, t.txq)) = some (some .readback, []) := by decide

/-- FV1. -/
theorem test_readMinDist : (after (exec .readMinDist quiet)).map (fun t => (t.refused, t.txq)) = some (some .readback, []) := by decide

/-- FV1. -/
theorem test_readMaxDist : (after (exec .readMaxDist quiet)).map (fun t => (t.refused, t.txq)) = some (some .readback, []) := by decide

/-! ## The session -/

/-- W1, CV1: the last footer byte makes the reading in the same step. -/
theorem test_update_completes_a_report :
    (after (exec .update { lastByte with C := { lastByte.C with new := false } })).map
        (fun t => (t.C.mmBits, t.C.lastT, t.C.new, t.P.state)) =
      some (0x449A5000, 7, true, .wh1) := by
  decide

/-- FV3. -/
theorem test_update_interleaved : faultOf (exec .update (scanning 0 .h0 0 0 [] [])) = some .hostInterleave := by decide

/-- W7: true, and cleared. -/
theorem test_hasNewData : (after (exec .hasNewData quiet)).map (fun t => (t.response, t.C.new)) = some (some (.bool true), false) := by decide

/-- CV10. -/
theorem test_hasNewData_at_reset : (after (exec .hasNewData State.reset)).map (fun t => t.response) = some (some (.bool false)) := by decide

/-- W1; C.NEW stays. -/
theorem test_getMm : (after (exec .getMm quiet)).map (fun t => (t.response, t.C.new)) = some (some (.f32 0x449A5000), true) := by decide

/-- The table of 95_test_vectors.md section 2.4. -/
theorem test_getM_table :
    [0x449A5000, 0x42C80000, 0x3F800000, 0x437A4000, 0x43FA0000, 0x477FFF00, 0x40600000, 0x00000000].map (fun x => f32DivNat x 1000) =
      [0x3F9E0419, 0x3DCCCCCD, 0x3A83126F, 0x3E8020C5, 0x3F000000, 0x428311EC, 0x3B656042, 0x00000000] := by
  decide

/-- CV8, CV9. -/
theorem test_getM_specials :
    (after (exec .getM { quiet with C := { quiet.C with mmBits := 0x80000000 } })).map (fun t => t.response) =
      some (some (.f32 0x80000000)) ∧
    (after (exec .getM { quiet with C := { quiet.C with mmBits := 0x7F800000 } })).map (fun t => t.response) =
      some (some (.f32 0x7F800000)) := by
  decide

/-- W8. -/
theorem test_isConnected_boundary :
    (after (exec .isConnected { quiet with now := 3999 })).map (fun t => t.response) = some (some (.bool true)) ∧
    (after (exec .isConnected { quiet with now := 4000 })).map (fun t => t.response) = some (some (.bool false)) := by
  decide

/-- CV5, CV6: the clock wraps. -/
theorem test_isConnected_wraps :
    (after (exec .isConnected { quiet with C := { quiet.C with lastT := 0xFFFFFC00 }, now := 0x100 })).map (fun t => t.response) =
      some (some (.bool true)) ∧
    (after (exec .isConnected { quiet with C := { quiet.C with lastT := 0xFFFFF000 }, now := 0x100 })).map (fun t => t.response) =
      some (some (.bool false)) := by
  decide

/-! ## The received frames -/

/-- CV2. -/
theorem test_reportFrame_bad_length :
    (after (exec (.reportFrame [1, 2, 3]) quiet)).map (fun t => (t.C == quiet.C, t.trace)) = some (true, [.cReportBadLen 3]) := by decide

/-- CV1. -/
theorem test_distanceReport :
    (after (exec (.distanceReport 0x42C80000) { quiet with now := 1000 })).map (fun t => t.C) =
      some { mmBits := 0x42C80000, obsT := 1000, lastT := 1000, new := true, cfgMode := false } := by
  decide

/-- CV3. -/
theorem test_configFrame :
    (after (exec (.configFrame [0xFF, 0x01]) { quiet with now := 2000 })).map (fun t => t.C) =
      some { mmBits := 0x449A5000, obsT := 1000, lastT := 2000, new := true, cfgMode := false } := by
  decide

/-- TV15: the whole payload is returned. -/
theorem test_configAck_match :
    (after (exec (.configAck 0x00FF [0x00, 0x00, 0x01, 0x00, 0x40, 0x00]) (scanning 0 .pl 8 8 [] []))).map
        (fun t => (t.T.ok, t.T.resp)) =
      some (true, [0xFF, 0x00, 0x00, 0x00, 0x01, 0x00, 0x40, 0x00]) := by
  decide

/-- P6: a changed command word does not match; the scan restarts and the deadline stays. -/
theorem test_configAck_mismatch :
    (after (exec (.configAck 0x01FF [0x00, 0x00]) (scanning 10 .pl 4 4 [] []))).map (fun t => (t.T.pos, t.T.phase, t.T.t0, t.trace)) =
      some (.h0, .scan, 0, [.tOpcodeMismatch 0x01FF]) := by
  decide

/-- PV8, PV5, PV19: a footer mismatch, an oversized length, and a byte that starts nothing. -/
theorem test_parser_resets :
    parserStep (parserAt .wf4 .report 4 4 []) 0xF4 = (parserAt .wh1 .report 4 4 [], some (.pFtrMismatch 3 0xF4), none) ∧
    parserStep (parserAt .wl2 .report 0x00FB 9 []) 0x00 = (parserAt .wh1 .report 0x00FB 9 [], some (.pOversize 251), none) ∧
    parserStep (parserAt .wh1 .config 4 4 []) 0x01 = (parserAt .wh1 .config 4 4 [], none, none) := by
  decide

/-- FV4: any operation requested while another runs. -/
theorem test_reentry : faultOf (step { lastByte with agenda := [.call .getMm] }) = some .hostReentry := by decide

/-! ## Witnesses: the hypotheses of each statement, met together -/

/-- UPDATE is in flight and one byte waits. -/
def updating : State := { quiet with running := some .update, rxq := [0x00] }

/-- ENTER_CFG's next byte completes a matching acknowledgement of two bytes, at the last moment. -/
def lastAckByte : State := scanning 999 .pl 2 1 [(0, 0xFF)] [0x00, 0x04]

theorem witness_RequestedOperationRunsInOneStep :
    (∃ (s : State) (i : Instr), s.fault = none ∧ s.nextAct = .call i ∧ i.isHostOp = true ∧ s.running = none) ∧
    ∃ (s : State) (i : Instr), s.fault = none ∧ s.agenda = [] ∧ s.nextAct = .call i ∧ i.isHostOp = true ∧ s.running = none :=
  ⟨⟨{ quiet with agenda := [.call .update, .block] }, .update, by decide⟩, { quiet with endless := .cycle (.call .getMm) [] }, .getMm,
    by decide⟩

theorem witness_OperationInFlightRunsInOneStep :
    (∃ (s : State) (i : Instr), s.fault = none ∧ s.running = some i ∧ s.agenda = [] ∧ s.nextAct = .block) ∧
    ∃ (s : State) (i : Instr), s.fault = none ∧ s.running = some i ∧ s.agenda = [.block, .rx []] ∧ s.nextAct = .block :=
  ⟨⟨updating, .update, by decide⟩, { updating with agenda := [.block, .rx []] }, .update, by decide⟩

theorem witness_ReceivedFrameRunsInTheStepOfItsLastByte :
    lastByte.fault = none ∧ lastByte.running = some .update ∧ lastByte.T.phase = .idle ∧ lastByte.P.Inv ∧ lastByte.P.state = .wf4 ∧
    lastByte.rxq = 0xF5 :: [] ∧ (0xF5 : Byte) = ftrByte lastByte.P.alph 3 ∧ lastByte.nextAct = .block := by
  decide

theorem witness_AcknowledgementRunsInThePassOfItsLastByte :
    (Instr.enterCfg 1000).request = some (0x00FF, [0x01, 0x00], 1000) ∧ lastAckByte.InPhase (.enterCfg 1000) .scan ∧
    lastAckByte.timedOut = false ∧ lastAckByte.T.pos = .pl ∧ lastAckByte.T.Inv ∧ lastAckByte.rxq = 0x00 :: [0x04] ∧
    zext16 (lastAckByte.T.idx + 1) = lastAckByte.T.len := by
  decide

/-- The schedule's three forms; then an empty append, the clock's last value, more bytes taken than there are, an idle turn, a frame
named as a call. -/
theorem witness_OutsideActsChangeOnlyTheirPort :
    (∃ s : State, s.agenda = [.reset]) ∧ (∃ s : State, s.agenda = [] ∧ s.endless = .cycle (.rx [0]) [.block]) ∧
    (∃ s : State, s.agenda = [] ∧ s.endless = .free 0) ∧
    (∃ s : State, s.fault = none ∧ s.nextAct = .rx []) ∧ (∃ s : State, s.fault = none ∧ s.nextAct = .clk 0xFFFFFFFF) ∧
    (∃ s : State, s.fault = none ∧ s.nextAct = .tx 1) ∧ (∃ s : State, s.fault = none ∧ s.nextAct = .block ∧ s.running = none) ∧
    ∃ s : State, s.fault = none ∧ s.nextAct = .call (.configFrame []) ∧ Instr.isHostOp (.configFrame []) = false :=
  ⟨⟨{ quiet with agenda := [.reset] }, by decide⟩, ⟨{ quiet with endless := .cycle (.rx [0]) [.block] }, by decide⟩,
    ⟨{ quiet with endless := .free 0 }, by decide⟩, ⟨{ quiet with agenda := [.rx []] }, by decide⟩,
    ⟨{ quiet with agenda := [.clk 0xFFFFFFFF] }, by decide⟩, ⟨{ quiet with endless := .cycle (.tx 1) [] }, by decide⟩,
    ⟨quiet, by decide⟩, { quiet with agenda := [.call (.configFrame [])] }, by decide⟩

/-- The longest admitted argument string. -/
theorem witness_AdmittedExchangeStarts :
    (Instr.exchange 0x1234 (List.replicate 248 0) 0).request = some (0x1234, List.replicate 248 0, 0) ∧ quiet.Free ∧
    (List.replicate 248 (0 : Byte)).length ≤ Config.txArgMax := by
  decide +kernel

/-- The shortest refused one. -/
theorem witness_LongArgumentsAreRefused : quiet.Free ∧ (List.replicate 249 (0 : Byte)).length > Config.txArgMax := by decide +kernel

theorem witness_DrainDiscardsUntilEmpty :
    (Instr.enterCfg 1000).request.isSome = true ∧ (inPhase (.enterCfg 1000) .drain 0x00FF [1, 0]).InPhase (.enterCfg 1000) .drain ∧
    (inPhase (.enterCfg 1000) .drain 0x00FF [1, 0]).rxq = [] ∧
    ({ inPhase (.enterCfg 1000) .drain 0x00FF [1, 0] with rxq := [0xF4] } : State).rxq = 0xF4 :: [] := by
  decide

theorem witness_SendWritesTheRequestOnce :
    (Instr.exitCfg 0).request.isSome = true ∧ (inPhase (.exitCfg 0) .send 0x00FE []).InPhase (.exitCfg 0) .send := by
  decide

/-- Exactly at the deadline. -/
theorem witness_DeadlineFailsTheExchange :
    (Instr.enterCfg 1000).request.isSome = true ∧ (scanning 1000 .h0 0 0 [] [0xFD]).InPhase (.enterCfg 1000) .scan ∧
    ((scanning 1000 .h0 0 0 [] [0xFD]).now - (scanning 1000 .h0 0 0 [] [0xFD]).T.t0).toNat ≥
      (scanning 1000 .h0 0 0 [] [0xFD]).T.tout.toNat := by
  decide

/-- One millisecond before it. -/
theorem witness_ScanWaitsForAByte :
    (Instr.enterCfg 1000).request.isSome = true ∧ (scanning 999 .h0 0 0 [] []).InPhase (.enterCfg 1000) .scan ∧
    ((scanning 999 .h0 0 0 [] []).now - (scanning 999 .h0 0 0 [] []).T.t0).toNat < (scanning 999 .h0 0 0 [] []).T.tout.toNat ∧
    (scanning 999 .h0 0 0 [] []).rxq = [] := by
  decide

/-- Each of the four header positions. -/
theorem witness_ScanMatchesTheConfigHeader :
    (Instr.enterCfg 1000).request.isSome = true ∧
    ∀ q ∈ [Pos.h0, Pos.h1, Pos.h2, Pos.h3], (scanning 999 q 0 0 [] [0xFD]).InPhase (.enterCfg 1000) .scan ∧
      ((scanning 999 q 0 0 [] [0xFD]).now - (scanning 999 q 0 0 [] [0xFD]).T.t0).toNat < (scanning 999 q 0 0 [] [0xFD]).T.tout.toNat ∧
      (scanning 999 q 0 0 [] [0xFD]).rxq = 0xFD :: [] ∧ (scanning 999 q 0 0 [] [0xFD]).T.pos = q := by
  decide

/-- The lengths 1, 2, 250 and 251, where the clauses meet. -/
theorem witness_ScanChecksTheLength :
    (Instr.enterCfg 1000).request.isSome = true ∧ (scanning 0 .l0 0 0 [] [0x02]).T.pos = .l0 ∧
    (∀ n : Half, (scanning 0 .l1 n 0 [] [0x00]).InPhase (.enterCfg 1000) .scan ∧ (scanning 0 .l1 n 0 [] [0x00]).T.pos = .l1 ∧
      (scanning 0 .l1 n 0 [] [0x00]).rxq = 0x00 :: [] ∧
      ((scanning 0 .l1 n 0 [] [0x00]).now - (scanning 0 .l1 n 0 [] [0x00]).T.t0).toNat < (scanning 0 .l1 n 0 [] [0x00]).T.tout.toNat) ∧
    le16 ((1 : Half).setWidth 8) 0x00 = 1 ∧ le16 ((2 : Half).setWidth 8) 0x00 = 2 ∧ le16 ((250 : Half).setWidth 8) 0x00 = 250 ∧
    le16 ((251 : Half).setWidth 8) 0x00 = 251 :=
  ⟨by decide, by decide, fun _ => ⟨⟨rfl, rfl⟩, rfl, rfl, by simp [scanning]⟩, by decide, by decide, by decide, by decide⟩

/-- The last byte but one of the longest acknowledgement. -/
theorem witness_ScanStoresAPayloadByte :
    (Instr.enterCfg 1000).request.isSome = true ∧ (scanning 0 .pl 250 248 [] [0x07]).InPhase (.enterCfg 1000) .scan ∧
    ((scanning 0 .pl 250 248 [] [0x07]).now - (scanning 0 .pl 250 248 [] [0x07]).T.t0).toNat <
      (scanning 0 .pl 250 248 [] [0x07]).T.tout.toNat ∧
    (scanning 0 .pl 250 248 [] [0x07]).rxq = 0x07 :: [] ∧ (scanning 0 .pl 250 248 [] [0x07]).T.pos = .pl ∧
    (scanning 0 .pl 250 248 [] [0x07]).T.Inv ∧ (248 : Byte).toNat + 1 < (250 : Half).toNat := by
  decide

theorem witness_OtherOpcodeRestartsTheScan :
    (Instr.enterCfg 1000).request.isSome = true ∧ (scanning 0 .pl 2 1 [(0, 0xFE)] [0x00]).InPhase (.enterCfg 1000) .scan ∧
    ((scanning 0 .pl 2 1 [(0, 0xFE)] [0x00]).now - (scanning 0 .pl 2 1 [(0, 0xFE)] [0x00]).T.t0).toNat <
      (scanning 0 .pl 2 1 [(0, 0xFE)] [0x00]).T.tout.toNat ∧
    (scanning 0 .pl 2 1 [(0, 0xFE)] [0x00]).rxq = 0x00 :: [] ∧ (scanning 0 .pl 2 1 [(0, 0xFE)] [0x00]).T.pos = .pl ∧
    (scanning 0 .pl 2 1 [(0, 0xFE)] [0x00]).T.Inv ∧ (1 : Byte).toNat + 1 = (2 : Half).toNat ∧
    le16 ((Memory.range [(0, 0xFE)] 0 1 ++ [0x00]).getD 0 0) ((Memory.range [(0, 0xFE)] 0 1 ++ [0x00]).getD 1 0) ≠ 0x00FF := by
  decide

theorem witness_MatchingOpcodeEndsTheExchange :
    (Instr.enterCfg 1000).request.isSome = true ∧ lastAckByte.InPhase (.enterCfg 1000) .scan ∧
    (lastAckByte.now - lastAckByte.T.t0).toNat < lastAckByte.T.tout.toNat ∧ lastAckByte.rxq = 0x00 :: [0x04] ∧
    lastAckByte.T.pos = .pl ∧ lastAckByte.T.Inv ∧ lastAckByte.T.idx.toNat + 1 = lastAckByte.T.len.toNat ∧
    le16 ((lastAckByte.T.buf.range 0 lastAckByte.T.idx.toNat ++ [0x00]).getD 0 0)
      ((lastAckByte.T.buf.range 0 lastAckByte.T.idx.toNat ++ [0x00]).getD 1 0) = lastAckByte.T.op := by
  decide

/-- EXIT_CFG with one byte waiting, the shortest timeout, and the longest acknowledgement. -/
def beforeExchange : State :=
  { quiet with
    rxq := [0xF4]
    agenda := .call (.exitCfg 1) :: (List.replicate 3 .block ++ .rx (encodeAck 0x00FE (List.replicate 248 0) ++ [0x04]) ::
      List.replicate (encodeAck 0x00FE (List.replicate 248 0)).length .block) }

theorem witness_ExchangeSucceedsOnMatchingAcknowledgement :
    (Instr.exitCfg 1).request = some (0x00FE, [], 1) ∧ beforeExchange.Inv ∧ beforeExchange.fault = none ∧ beforeExchange.Free ∧
    ([] : List Byte).length ≤ Config.txArgMax ∧ 2 + (List.replicate 248 (0 : Byte)).length ≤ Config.txBufCap ∧ (1 : Millis) ≠ 0 ∧
    beforeExchange.agenda = .call (.exitCfg 1) :: (List.replicate (beforeExchange.rxq.length + 2) .block ++
      .rx (encodeAck 0x00FE (List.replicate 248 0) ++ [0x04]) :: List.replicate (encodeAck 0x00FE (List.replicate 248 0)).length .block) :=
  ⟨by decide, ⟨by decide, by decide, by decide, by decide⟩, by decide, by decide, by decide, by decide +kernel, by decide, rfl⟩

/-- SET_MAX_DIST with one byte waiting, looked at twice in the last millisecond. -/
def beforeSilence : State :=
  { quiet with
    rxq := [0xF4]
    agenda := .call (.setMaxDist 3000 1000) :: (List.replicate 3 .block ++ .clk (quiet.now + 999) :: List.replicate 2 .block ++
      [.clk (quiet.now + 1000), .block]) }

theorem witness_UnansweredExchangeFailsAtItsDeadline :
    (Instr.setMaxDist 3000 1000).request = some (0x0075, [0xB8, 0x0B], 1000) ∧ beforeSilence.fault = none ∧ beforeSilence.Free ∧
    [0xB8, (0x0B : Byte)].length ≤ Config.txArgMax ∧ (999 : Millis).toNat < (1000 : Millis).toNat ∧
    beforeSilence.agenda = .call (.setMaxDist 3000 1000) :: (List.replicate (beforeSilence.rxq.length + 2) .block ++
      .clk (beforeSilence.now + 999) :: List.replicate 2 .block ++ [.clk (beforeSilence.now + 1000), .block]) := by
  decide

theorem witness_ReadBacksOnlyMarkRefused :
    quiet.running = none ∧ ∀ i ∈ [Instr.readVersion, .readPeriod, .readMinDist, .readMaxDist],
      i = .readVersion ∨ i = .readPeriod ∨ i = .readMinDist ∨ i = .readMaxDist := by
  decide

theorem witness_HasNewDataReadsAndClears : quiet.running = none := by decide

theorem witness_GetMmReturnsTheReading : quiet.running = none := by decide

/-- A NaN, an infinity and a zero. -/
theorem witness_GetMReturnsTheReadingInMetres :
    quiet.running = none ∧ f32IsNan 0x7FC00000 = true ∧ f32IsInf 0xFF800000 = true ∧ f32IsZero 0x80000000 = true := by
  decide

/-- The largest finite value, beside the quotient 0.5 of the reading 500. -/
theorem witness_MetresAreTheNearestBinary32 : f32IsFinite 0x7F7FFFFF ∧ f32IsFinite 0x43FA0000 ∧ f32IsFinite 0x3F000000 := by decide

theorem witness_IsConnectedIsTheStalenessTest : quiet.running = none := by decide

/-- 2999 and 3000 ms after the refresh. -/
theorem witness_ConnectionLastsThreeSeconds :
    quiet.running = none ∧ ({ quiet with now := 3999 } : State).now = quiet.C.lastT + 2999 ∧
    ({ quiet with now := 4000 } : State).now = quiet.C.lastT + 3000 := by
  decide

theorem witness_OtherReportIsIgnored :
    ([] : List Byte).length ≠ 4 ∧ [(1 : Byte), 2, 3].length ≠ 4 ∧ [(1 : Byte), 2, 3, 4, 5].length ≠ 4 := by
  decide

theorem witness_ConfigAckMatchesByOpcodeAlone : lastAckByte.T.phase = .scan ∧ quiet.T.phase ≠ .scan := by decide

theorem witness_UpdateParsesOneByteAtATime :
    quiet.T.phase = .idle ∧ quiet.running = none ∧ quiet.rxq = [] ∧ updating.T.phase = .idle ∧ updating.running = some .update ∧
    updating.rxq = 0x00 :: [] ∧ updating.P.Inv ∧ (parserStep updating.P 0x00).2.2 = none := by
  decide

/-- Two reports wait. -/
def backlog : State :=
  { quiet with
    rxq := [0xF4, 0xF3, 0xF2, 0xF1, 0x04, 0x00, 0x00, 0x50, 0x9A, 0x44, 0xF8, 0xF7, 0xF6, 0xF5, 0xFD, 0xFC, 0xFB, 0xFA, 0x00, 0x00, 0x04,
      0x03, 0x02, 0x01]
    agenda := .call .update :: List.replicate 24 .block }

theorem witness_UpdateTakesTheWholeBacklog :
    backlog.Inv ∧ backlog.fault = none ∧ backlog.Free ∧ backlog.agenda = .call .update :: List.replicate backlog.rxq.length .block :=
  ⟨⟨by decide, by decide, by decide, by decide⟩, by decide, by decide, by decide⟩

/-- A byte comes before every turn of the block, during a drain and during UPDATE. -/
def flooded (s : State) : State := { s with endless := .cycle (.rx [0xF4]) [.block] }

theorem witness_AStreamThatNeverEmptiesKeepsTheLoops :
    (flooded quiet).fault = none ∧ (flooded quiet).agenda = [] ∧ (flooded quiet).endless = .cycle (.rx (0xF4 :: [])) [.block] ∧
    (Instr.exitCfg 0).request.isSome = true ∧ (flooded (inPhase (.exitCfg 0) .drain 0x00FE [])).InPhase (.exitCfg 0) .drain ∧
    (flooded updating).running = some .update ∧ (flooded updating).T.phase = .idle ∧ (flooded updating).P.Inv := by
  decide

/-- I-U11: the flood's byte comes, the drain takes it, and the cycle begins again. -/
theorem test_flooded_drain :
    (after (step (flooded (inPhase (.exitCfg 0) .drain 0x00FE [])))).map (fun t => (t.T.phase, t.rxq, t.agenda)) =
      some (.drain, [0xF4], [.block]) ∧
    (after (step { flooded (inPhase (.exitCfg 0) .drain 0x00FE []) with rxq := [0xF4], agenda := [.block] })).map
        (fun t => (t.T.phase, t.rxq, t.agenda, t.nextAct)) =
      some (.drain, [], [], .rx [0xF4]) := by
  decide

theorem witness_UpdateFrame : ∃ t, exec .update lastByte = .next t := ⟨_, rfl⟩

/-- Each of the four header states, in both alphabets. -/
theorem witness_HeaderStatesFollowTheAlphabet :
    (parserAt .wh1 .report 0 0 []).state = .wh1 ∧ (parserAt .wh2 .config 0 0 []).state = .wh2 ∧
    (parserAt .wh3 .report 0 0 []).state = .wh3 ∧ (parserAt .wh4 .config 0 0 []).state = .wh4 := by
  decide

/-- The high byte meets a low byte of 250, 251 and 0. -/
theorem witness_LengthStatesBoundTheLength :
    (parserAt .wl1 .report 0 0 []).state = .wl1 ∧ (parserAt .wl2 .report 250 0 []).state = .wl2 ∧
    (le16 ((250 : Half).setWidth 8) 0).toNat = 250 ∧ (le16 ((251 : Half).setWidth 8) 0).toNat = 251 ∧
    (le16 ((0 : Half).setWidth 8) 0).toNat = 0 := by
  decide

/-- The last payload byte of the longest frame. -/
theorem witness_PayloadIsStoredByCount : (parserAt .wp .report 250 249 []).Inv ∧ (parserAt .wp .report 250 249 []).state = .wp := by decide

theorem witness_FooterStatesValidateAndEmit :
    (parserAt .wf1 .report 0 0 []).state = .wf1 ∧ (parserAt .wf2 .config 0 0 []).state = .wf2 ∧
    (parserAt .wf3 .report 0 0 []).state = .wf3 ∧ (parserAt .wf4 .config 0 0 []).state = .wf4 := by
  decide

/-- The shortest and the longest frame. -/
theorem witness_WellFormedFrameIsEmittedAtItsLastByte :
    Parser.reset.state = .wh1 ∧ Parser.reset.buf.wf = true ∧ (Frame.mk .config 0 []).WellFormed ∧
    (Frame.mk .report 250 (List.replicate 250 0x11)).WellFormed := by
  decide +kernel

theorem witness_ParserReturnsToWaitHeader :
    (parserAt .wh2 .report 0 0 []).Inv ∧ 259 ≤ (List.replicate 259 (0xF3 : Byte)).length ∧ (parserAt .wf1 .config 0 0 []).Inv ∧
    (parserAt .wf1 .config 0 0 []).state = .wf1 ∧ 4 ≤ (ftr .config).length := by
  decide +kernel

theorem witness_StaleParserRegistersNeverShow :
    Parser.reset.state = .wh1 ∧ (parserAt .wh1 .config 9 200 [(3, 7)]).state = .wh1 ∧ Parser.reset.buf.wf = true ∧
    (parserAt .wh1 .config 9 200 [(3, 7)]).buf.wf = true := by
  decide

/-- One instruction for each port. -/
theorem witness_DecodeOfEncodeIsTheInstruction :
    (Instr.setPeriod 30 5).wellFormed = true ∧ (Instr.setPeriod 30 5).port = some .sent ∧ (Instr.reportFrame [1, 2, 3]).wellFormed = true ∧
    (Instr.reportFrame [1, 2, 3]).port = some .background ∧ (Instr.configAck 0x00FF [0]).wellFormed = true ∧
    (Instr.configAck 0x00FF [0]).port = some .scan ∧ [(0x01 : Byte), 0x01].length ≤ 248 ∧
    ((0x00FF : Half) = 0x00FF → [(0x01 : Byte), 0x01] ≠ [0x01, 0x00]) ∧
    ((0x00FF : Half) = 0x00FE ∨ (0x00FF : Half) = 0x00A2 → [(0x01 : Byte), 0x01] ≠ []) ∧
    ((0x00FF : Half) = 0x0071 ∨ (0x00FF : Half) = 0x0074 ∨ (0x00FF : Half) = 0x0075 → [(0x01 : Byte), 0x01].length ≠ 2) := by
  decide

theorem witness_ReceivedBytesAreTheEncodingOfWhatTheyDecodeTo :
    Port.background ≠ .sent ∧ Port.scan ≠ .sent ∧
    readAs .background [0xFD, 0xFC, 0xFB, 0xFA, 0x01, 0x00, 0xAA, 0x04, 0x03, 0x02, 0x01, 0x55] = some (.configFrame [0xAA], [0x55]) ∧
    readAs .scan [0xFD, 0xFC, 0xFB, 0xFA, 0x02, 0x00, 0xFF, 0x00, 0x55] = some (.configAck 0x00FF [], [0x55]) := by
  decide

theorem witness_InterleavedUpdateFaults :
    ∃ s : State, s.T.phase ≠ .idle ∧ s.fault = none ∧ s.running.isSome = true ∧ s.nextAct = .call .update :=
  ⟨{ lastAckByte with agenda := [.call .update] }, by decide⟩

/-- A query during an exchange, and UPDATE during UPDATE. -/
theorem witness_ReentrantRequestFaults :
    (∃ s : State, s.fault = none ∧ s.running.isSome = true ∧ s.nextAct = .call .getMm ∧ Instr.isHostOp .getMm = true ∧
      Instr.getMm ≠ .update) ∧
    ∃ s : State, s.fault = none ∧ s.running.isSome = true ∧ s.nextAct = .call .update ∧ Instr.isHostOp .update = true ∧
      s.T.phase = .idle :=
  ⟨⟨{ lastAckByte with agenda := [.call .getMm] }, by decide⟩, { updating with agenda := [.call .update] }, by decide⟩

theorem witness_NoStepReadsAnEmptyStream : updating.fault = none := by decide

/-- A state that steps on, and one in which the host breaches its contract. -/
theorem witness_OnlyAHostBreachStopsTheMachine :
    (lastAckByte.Inv ∧ lastAckByte.fault = none) ∧
    ∃ s : State, s.Inv ∧ s.fault = none ∧ s.nextAct = .call .getMm ∧ s.running = some (.enterCfg 1000) :=
  ⟨⟨⟨by decide, by decide, by decide, by decide⟩, by decide⟩, { lastAckByte with agenda := [.call .getMm] },
    ⟨by decide, by decide, by decide, by decide⟩, by decide⟩

theorem witness_MarksAreSticky :
    ({ quiet with fault := some .hostReentry } : State).fault = some .hostReentry ∧
    ({ quiet with refused := some .readback } : State).refused = some .readback := by
  decide

theorem witness_ResetLeavesStreamsClockAndMarks : ∃ s : State, s.fault = none ∧ s.nextAct = .reset :=
  ⟨{ updating with agenda := [.reset] }, by decide⟩

theorem witness_StepKeepsTheInvariant : lastByte.Inv ∧ ∃ t, step lastByte = .next t :=
  ⟨⟨by decide, by decide, by decide, by decide⟩, _, rfl⟩

theorem witness_ExchangeLeavesParserAndReadingAlone :
    lastAckByte.PortInv ∧ lastAckByte.T.phase ≠ .idle ∧ lastAckByte.nextAct ≠ .reset ∧ ∃ t, step lastAckByte = .next t :=
  ⟨by decide, by decide, by decide, _, rfl⟩

/-- A step in which the flag changes, and one in which an exchange fails. -/
theorem witness_ConfigModeChangesOnlyOnSuccess :
    (∃ t, step lastAckByte = .next t ∧ t.C.cfgMode ≠ lastAckByte.C.cfgMode ∧ lastAckByte.nextAct ≠ .reset) ∧
    (∃ t, step (scanning 1000 .h0 0 0 [] []) = .next t ∧ (scanning 1000 .h0 0 0 [] []).T.phase ≠ .idle ∧ t.T.phase = .idle ∧
      t.T.ok = false) :=
  ⟨⟨_, rfl, by decide, by decide⟩, _, rfl, by decide, by decide, by decide⟩

theorem witness_OnlySendWritesTheOutput :
    ∃ t, step (inPhase (.exitCfg 0) .send 0x00FE []) = .next t ∧ t.txq ≠ (inPhase (.exitCfg 0) .send 0x00FE []).txq :=
  ⟨_, rfl, by decide⟩

/-- A byte read by UPDATE, one read by the scan, and two appended. -/
theorem witness_OneReaderTakesOneByte :
    (∃ t, step updating = .next t ∧ t.rxq = []) ∧ (∃ t, step lastAckByte = .next t ∧ t.rxq = [0x04]) ∧
    ∃ t, step { quiet with agenda := [.rx [1, 2]] } = .next t ∧ t.rxq = quiet.rxq ++ [1, 2] :=
  ⟨⟨_, rfl, by decide⟩, ⟨_, rfl, by decide⟩, _, rfl, by decide⟩

theorem witness_FrameOutIsDrivenOnlyByTheLastFooterByte :
    lastByte.P.Inv ∧ lastByte.PortInv ∧
    ∃ t, step lastByte = .next t ∧ t.frameOut = some { kind := .report, length := 4, payload := [0x00, 0x50, 0x9A, 0x44] } :=
  ⟨by decide, by decide, _, rfl, by decide⟩

theorem witness_AStepRaisesAtMostOneEvent : ∃ t, step (scanning 1000 .h0 0 0 [] []) = .next t ∧ t.trace = [.tTimeout] :=
  ⟨_, rfl, by decide⟩

end Sys2Proof.Tests
end

section
/-! PROOFS. The full request bytes of the six configuration operations (R79, R134): the request frame is written out once for
each of the two argument lengths the six use, none and two bytes, and each operation's bytes are an instance. -/

namespace Sys2Proof

/-- The two bytes of a 16-bit value as the obligations spell them (R13). -/
theorem u16le_eq_setWidth (v : Half) : u16le v = [v.setWidth 8, (v >>> 8).setWidth 8] := rfl

/-- A request without arguments: its length field holds the opcode's two bytes (R134). -/
theorem encodeRequest_nil (op : Half) :
    encodeRequest op [] =
      [0xFD, 0xFC, 0xFB, 0xFA, 0x02, 0x00, op.setWidth 8, (op >>> 8).setWidth 8, 0x04, 0x03, 0x02, 0x01] := by
  simp [encodeRequest, hdr, ftr, u16le_eq_setWidth]

/-- A request with two argument bytes: its length field is 4 (R134). -/
theorem encodeRequest_pair (op : Half) (a b : Byte) :
    encodeRequest op [a, b] =
      [0xFD, 0xFC, 0xFB, 0xFA, 0x04, 0x00, op.setWidth 8, (op >>> 8).setWidth 8, a, b, 0x04, 0x03, 0x02, 0x01] := by
  simp [encodeRequest, hdr, ftr, u16le_eq_setWidth]

/-- A request with a 16-bit argument carries it low byte first (R79, R134). -/
theorem encodeRequest_u16le (op v : Half) :
    encodeRequest op (u16le v) =
      [0xFD, 0xFC, 0xFB, 0xFA, 0x04, 0x00, op.setWidth 8, (op >>> 8).setWidth 8, v.setWidth 8, (v >>> 8).setWidth 8, 0x04, 0x03,
        0x02, 0x01] := by
  rw [u16le_eq_setWidth, encodeRequest_pair]

/-- Settles O42: each operation's request is the frame of no or two argument bytes at its opcode (R79). -/
theorem requestBytesOfTheSixOperations : Obligations.RequestBytesOfTheSixOperations := by
  intro t p mm
  refine ⟨?enterCfg, ?exitCfg, ?setPeriod, ?setMinDist, ?setMaxDist, ?factoryReset⟩
  case enterCfg => exact encodeRequest_pair opEnterCfg 0x01 0x00
  case exitCfg => exact encodeRequest_nil opExitCfg
  case setPeriod => exact encodeRequest_u16le opSetPeriod (clampPeriod p)
  case setMinDist => exact encodeRequest_u16le opSetMinDist mm
  case setMaxDist => exact encodeRequest_u16le opSetMaxDist mm
  case factoryReset => exact encodeRequest_nil opFactoryReset

end Sys2Proof
end

section
/-! PROOFS. The payload and footer states of the parser step (R115 to R121): in WP P.IDX counts without wrapping, so the 16-bit test
that ends the payload is a test of the count; WF1 to WF4 test the footer byte of the active alphabet. -/

namespace Sys2Proof.Machine

/-- `zext_16` keeps the value (R115). -/
@[simp] theorem zext16_toNat (b : Byte) : (zext16 b).toNat = b.toNat :=
  BitVec.toNat_setWidth_of_le (by decide)

/-- P.IDX is at most 250, so counting it up never wraps (R25). -/
theorem Parser.Inv.idx_succ_toNat {p : Parser} (h : p.Inv) : (p.idx + 1).toNat = p.idx.toNat + 1 := by
  obtain ⟨-, -, -, hidx, -⟩ := h
  refine BitVec.toNat_add_of_lt ?_
  have hone : (1 : Byte).toNat = 1 := rfl
  simp only [Config.maxLen] at hidx
  omega

/-- The test that ends the payload is a test of the count (R115). -/
theorem Parser.Inv.payload_ends_iff {p : Parser} (h : p.Inv) :
    zext16 (p.idx + 1) = p.len ↔ p.idx.toNat + 1 = p.len.toNat := by
  rw [← BitVec.toNat_inj, zext16_toNat, h.idx_succ_toNat]

/-- In WP the byte is stored at P.IDX, whatever its value (R115). -/
theorem parserStep_of_wp {p : Parser} {b : Byte} (h : p.Inv) (hs : p.state = .wp) :
    parserStep p b =
      ({ p with
          buf := p.buf.write p.idx.toNat b
          idx := p.idx + 1
          state := if p.idx.toNat + 1 = p.len.toNat then .wf1 else .wp }, none, none) := by
  simp only [parserStep, hs, stepPayload, h.payload_ends_iff]

/-- Settles O35: the buffer after the step is the write at P.IDX, and a write is read back at its own index only. -/
theorem payloadIsStoredByCount : Obligations.PayloadIsStoredByCount := by
  intro p b h hs
  have hwf : p.buf.wf = true := by
    obtain ⟨-, -, -, -, hbuf, -⟩ := h
    exact hbuf
  exact ⟨p.buf.write p.idx.toNat b, parserStep_of_wp h hs, Memory.wf_write _ b hwf, fun a => Memory.read_write _ b a hwf⟩

/-- States WF1 to WF3, with the expected footer byte named `x` (R117 to R119, R121). -/
theorem stepFooter_of_ftrByte {p : Parser} {k : Nat} {x : Byte} (hx : ftrByte p.alph k = x) (b : Byte) (good : PState) :
    stepFooter p b k good =
      if b = x then ({ p with state := good }, none, none) else ({ p with state := .wh1 }, some (.pFtrMismatch k b), none) := by
  rw [stepFooter, hx]

/-- State WF4, with the expected last footer byte named `x` (R120, R121). -/
theorem stepEmit_of_ftrByte {p : Parser} {x : Byte} (hx : ftrByte p.alph 3 = x) (b : Byte) :
    stepEmit p b =
      if b = x then ({ p with state := .wh1 }, none, some p.frame)
      else ({ p with state := .wh1 }, some (.pFtrMismatch 3 b), none) := by
  rw [stepEmit, hx]

/-- Settles O36: each footer state is the test of its own footer byte, which the alphabet names (R117 to R121). -/
theorem footerStatesValidateAndEmit : Obligations.FooterStatesValidateAndEmit := by
  intro p b lost go
  refine ⟨fun hs => ?wf1, fun hs => ?wf2, fun hs => ?wf3, fun hs => ?wf4⟩ <;> simp only [parserStep, hs]
  case wf1 => exact stepFooter_of_ftrByte (by cases p.alph <;> rfl) b .wf2
  case wf2 => exact stepFooter_of_ftrByte (by cases p.alph <;> rfl) b .wf3
  case wf3 => exact stepFooter_of_ftrByte (by cases p.alph <;> rfl) b .wf4
  case wf4 => exact stepEmit_of_ftrByte (by cases p.alph <;> rfl) b

end Sys2Proof.Machine
end

section
/-! PROOFS. A scan pass of an operation in flight (R138 to R140): before the deadline the pass is the action of the oldest waiting byte,
and while T.PHASE stays SCAN the operation goes on. Positions H0 to H3 test that byte against the config header. -/

namespace Sys2Proof.Machine

/-- In phase SCAN the next action of each of the seven operations is a scan pass, and the return if the pass ended the exchange
(R138, R149). -/
theorem exec_of_inPhase_scan {i : Instr} {s : State} (hi : i.request.isSome = true) (hp : s.InPhase i .scan) :
    exec i s = returning (fun t => t.returned i) (scanPass s) := by
  obtain ⟨hrun, hphase⟩ := hp
  obtain ⟨⟨op, args, tout⟩, hreq⟩ := Option.isSome_iff_exists.1 hi
  rw [exec_of_request hreq, exchangeOp_running hrun (by simp [hphase]), hphase]

/-- The deadline is reached exactly when the elapsed time is at least T.TOUT, as numbers (R139). -/
theorem timedOut_eq_false_iff {s : State} : s.timedOut = false ↔ (s.now - s.T.t0).toNat < s.T.tout.toNat := by
  simp [State.timedOut, elapsed, BitVec.lt_def]

/-- Before the deadline a pass with a byte waiting takes it and acts on it (R138, R139). -/
theorem scanPass_cons {s : State} {b : Byte} {bs : List Byte} (ht : (s.now - s.T.t0).toNat < s.T.tout.toNat)
    (hq : s.rxq = b :: bs) : scanPass s = scanByte b { s with rxq := bs } := by
  have havail : s.avail ≠ 0 := by simp [avail_eq_zero, hq]
  simp [scanPass, timedOut_eq_false_iff.2 ht, havail, readByte_cons hq]

/-- Before the deadline, an action on the oldest byte that leaves T.PHASE in SCAN is the whole step of the operation (R138). -/
theorem exec_of_scanByte {i : Instr} {s t : State} {b : Byte} {bs : List Byte} (hi : i.request.isSome = true)
    (hp : s.InPhase i .scan) (ht : (s.now - s.T.t0).toNat < s.T.tout.toNat) (hq : s.rxq = b :: bs)
    (hbyte : scanByte b { s with rxq := bs } = .next t) (hscan : t.T.phase = .scan) : exec i s = .next t := by
  rw [exec_of_inPhase_scan hi hp, scanPass_cons ht hq, hbyte]
  simp [returning, hscan]

/-- A header position does not end the exchange (R140). -/
@[simp] theorem scanHeader_phase (b : Byte) (k : Nat) (good : Pos) (s : State) :
    (scanHeader b k good s).T.phase = s.T.phase := by
  unfold scanHeader
  split <;> rfl

/-- Positions H1 to H3, with the expected header byte named `x` (R140). -/
theorem scanHeader_of_hdrByte {k : Nat} {x : Byte} (hx : hdrByte .config k = x) (b : Byte) (good : Pos) (s : State) :
    scanHeader b k good s =
      if b = x then { s with T := { s.T with pos := good } }
      else { s with T := { s.T with pos := .h0 }, trace := s.trace ++ [.tHdrMismatch k b] } := by
  subst hx
  rfl

/-- A pass at one of the positions H1 to H3, with the expected header byte named `x` (R140). -/
theorem exec_of_scanHeader {i : Instr} {s : State} {b : Byte} {bs : List Byte} {k : Nat} {x : Byte} {good : Pos}
    (hi : i.request.isSome = true) (hp : s.InPhase i .scan) (ht : (s.now - s.T.t0).toNat < s.T.tout.toNat)
    (hq : s.rxq = b :: bs) (hx : hdrByte .config k = x)
    (hbyte : scanByte b { s with rxq := bs } = .next (scanHeader b k good { s with rxq := bs })) :
    exec i s = .next (if b = x then { s with rxq := bs, T := { s.T with pos := good } }
      else { s with rxq := bs, T := { s.T with pos := .h0 }, trace := s.trace ++ [.tHdrMismatch k b] }) := by
  have hphase : s.T.phase = .scan := hp.2
  rw [exec_of_scanByte hi hp ht hq hbyte (by simp [hphase]), scanHeader_of_hdrByte hx]

/-- Settles O12: the waiting byte is tested against the header byte of its own position, and the exchange goes on (R140). -/
theorem scanMatchesTheConfigHeader : Obligations.ScanMatchesTheConfigHeader := by
  intro i s b bs hi hp ht hq move lost
  refine ⟨fun hs => ?h0, fun hs => ?h1, fun hs => ?h2, fun hs => ?h3⟩
  case h0 =>
    have hphase : s.T.phase = .scan := hp.2
    exact exec_of_scanByte (t := scanStart b { s with rxq := bs }) hi hp ht hq (by simp only [scanByte, hs]) hphase
  case h1 => exact exec_of_scanHeader hi hp ht hq (x := 0xFC) rfl (by simp only [scanByte, hs])
  case h2 => exact exec_of_scanHeader hi hp ht hq (x := 0xFB) rfl (by simp only [scanByte, hs])
  case h3 => exact exec_of_scanHeader hi hp ht hq (x := 0xFA) rfl (by simp only [scanByte, hs])

end Sys2Proof.Machine
end

section
/-! PROOFS. The clamp of SET_PERIOD (R153, R154). -/

namespace Sys2Proof

/-- The clamp, on numbers (R154). -/
theorem clampPeriod_toNat (p : Half) :
    (clampPeriod p).toNat = if p.toNat < 50 then 50 else if p.toNat > 1000 then 1000 else p.toNat := by
  have hmin : Config.periodMin.toNat = 50 := rfl
  have hmax : Config.periodMax.toNat = 1000 := rfl
  simp only [clampPeriod, apply_ite BitVec.toNat, gt_iff_lt, BitVec.lt_def, hmin, hmax]

/-- Settles O43: the clamp compares as numbers do, and the request of SET_PERIOD carries the clamped value (R153, R154). -/
theorem periodIsClampedBeforeEncoding : Obligations.PeriodIsClampedBeforeEncoding :=
  fun p _ => ⟨clampPeriod_toNat p, rfl⟩

end Sys2Proof
end

section
/-! PROOFS. The consumer's one-action operations (R173, R174) and the background config frame (R170). With the host port free a query's
whole effect is its own writes and its result: `respond` then leaves the port free, as it was. -/

namespace Sys2Proof.Machine

/-- On a free host port an operation of one action is answered (R190): the converse of `whenFree_next`. -/
theorem State.whenFree_of_free {s : State} (h : s.running = none) (t : State) : s.whenFree t = .next t := by
  simp [State.whenFree, h]

/-- On a free host port a result changes the response port only (R49). -/
theorem State.respond_of_free {s : State} (h : s.running = none) (v : Response) :
    s.respond v = { s with response := some v } := by
  rw [State.respond, ← h]

/-- HAS_NEW_DATA is its pseudocode whenever the host port is free (R173). -/
theorem exec_hasNewData (s : State) : exec .hasNewData s = s.whenFree (s.clearNew.respond (.bool s.C.new)) := rfl

/-- GET_MM is its pseudocode whenever the host port is free (R174). -/
theorem exec_getMm (s : State) : exec .getMm s = s.whenFree (s.respond (.f32 s.C.mmBits)) := rfl

/-- Settles O20: the answer is C.NEW as it was before the clearing, and clearing it leaves the host port free (R173). -/
theorem hasNewDataReadsAndClears : Obligations.HasNewDataReadsAndClears := by
  intro s hfree
  have hcleared : s.clearNew.running = none := hfree
  rw [exec_hasNewData, State.whenFree_of_free hfree, State.respond_of_free hcleared]
  rfl

/-- Settles O21: the answer is a pure read, so only the response port changes (R174). -/
theorem getMmReturnsTheReading : Obligations.GetMmReturnsTheReading := by
  intro s hfree
  rw [exec_getMm, State.whenFree_of_free hfree, State.respond_of_free hfree]

/-- Settles O28: the frame goes to FRAME_OUT, which `refreshLast` does not read; it writes C.LAST_T alone (R170). The model's row is
these two updates, so the equation is its definition. -/
theorem configFrameOnlyRefreshesTheTimestamp : Obligations.ConfigFrameOnlyRefreshesTheTimestamp :=
  fun _ _ => rfl

end Sys2Proof.Machine
end

section
/-! PROOFS. The phases of an exchange in flight, one action at a time (R130 to R139): admission, the checks of the drain, the send, and the
scan passes that read no byte. -/

namespace Sys2Proof.Machine

/-- With the host port free, an operation that exchanges is admitted or refused by the length of its arguments (R130, R132). -/
theorem exec_of_free {i : Instr} {op : Half} {args : List Byte} {tout : Millis} {s : State} (hi : i.request = some (op, args, tout))
    (hs : s.Free) :
    exec i s = if args.length > Config.txArgMax then .next (s.refuse .argLength) else .next (s.startExchange i op args tout) := by
  rw [exec_of_request hi, exchangeOp_free hs]

/-- In phase DRAIN the next action is a check of the drain (R133). -/
theorem exec_of_inPhase_drain {i : Instr} {s : State} (hi : i.request.isSome = true) (hp : s.InPhase i .drain) :
    exec i s = drainAction s := by
  obtain ⟨hrun, hphase⟩ := hp
  obtain ⟨⟨op, args, tout⟩, hreq⟩ := Option.isSome_iff_exists.1 hi
  rw [exec_of_request hreq, exchangeOp_running hrun (by simp [hphase]), hphase]

/-- In phase SEND the next action is the write of the request with the scan start (R135, R137). -/
theorem exec_of_inPhase_send {i : Instr} {s : State} (hi : i.request.isSome = true) (hp : s.InPhase i .send) :
    exec i s = .next (s.writeBytes (encodeRequest s.T.op s.T.args)).startScan := by
  obtain ⟨hrun, hphase⟩ := hp
  obtain ⟨⟨op, args, tout⟩, hreq⟩ := Option.isSome_iff_exists.1 hi
  rw [exec_of_request hreq, exchangeOp_running hrun (by simp [hphase]), hphase]
  rfl

theorem drainAction_nil {s : State} (hq : s.rxq = []) : drainAction s = .next { s with T := { s.T with phase := .send } } := by
  simp [drainAction, avail_eq_zero.2 hq]

theorem drainAction_cons {s : State} {b : Byte} {bs : List Byte} (hq : s.rxq = b :: bs) :
    drainAction s = .next { s with rxq := bs } := by
  have havail : s.avail ≠ 0 := by simp [avail_eq_zero, hq]
  simp [drainAction, havail, readByte_cons hq]

/-- Before the deadline a pass that finds no byte waiting changes nothing (R138). -/
theorem scanPass_nil {s : State} (ht : (s.now - s.T.t0).toNat < s.T.tout.toNat) (hq : s.rxq = []) : scanPass s = .next s := by
  simp [scanPass, timedOut_eq_false_iff.2 ht, avail_eq_zero.2 hq]

/-- At or past the deadline a pass fails the exchange, whatever is waiting (R139, R146). -/
theorem scanPass_of_timedOut {s : State} (ht : (s.now - s.T.t0).toNat ≥ s.T.tout.toNat) : scanPass s = .next s.exchangeFails := by
  have htimed : s.timedOut = true := by
    rw [← Bool.not_eq_false, timedOut_eq_false_iff]
    omega
  simp [scanPass, htimed]

/-- Settles O6: with at most 248 argument bytes admission is the exchange start (R132). -/
theorem admittedExchangeStarts : Obligations.AdmittedExchangeStarts := by
  intro i op args tout s hi hs hlen
  rw [exec_of_free hi hs, if_neg (by omega)]
  rfl

/-- Settles O7: with more than 248 argument bytes admission is the refusal (R130). -/
theorem longArgumentsAreRefused : Obligations.LongArgumentsAreRefused := by
  intro op args tout s hs hlen
  rw [exec_of_free (i := .exchange op args tout) rfl hs, if_pos hlen]
  rfl

/-- Settles O8: a check of the drain, with a byte waiting and with none (R133). -/
theorem drainDiscardsUntilEmpty : Obligations.DrainDiscardsUntilEmpty := by
  intro i s hi hp
  rw [exec_of_inPhase_drain hi hp]
  exact ⟨fun _ _ hq => drainAction_cons hq, fun hq => drainAction_nil hq⟩

/-- Settles O9: the request is REQ(T.OP, T.ARGS), whose header and footer are the config alphabet's (R134, R135, R137). -/
theorem sendWritesTheRequestOnce : Obligations.SendWritesTheRequestOnce := by
  intro i s hi hp
  rw [exec_of_inPhase_send hi hp]
  rfl

/-- Settles O10: the failing pass ends the exchange, so the operation returns with it (R139, R146). -/
theorem deadlineFailsTheExchange : Obligations.DeadlineFailsTheExchange := by
  intro i s hi hp ht
  rw [exec_of_inPhase_scan hi hp, scanPass_of_timedOut ht]
  rfl

/-- Settles O11: the pass leaves T.PHASE in SCAN, so the operation goes on (R138). -/
theorem scanWaitsForAByte : Obligations.ScanWaitsForAByte := by
  intro i s hi hp ht hq
  have hphase : s.T.phase = .scan := hp.2
  rw [exec_of_inPhase_scan hi hp, scanPass_nil ht hq]
  simp [returning, hphase]

end Sys2Proof.Machine
end

section
/-! PROOFS. The length and payload positions of the scan, and the acknowledgement they complete (R141 to R148): the payload is the bytes
stored in T.BUF, and its first two are the echoed opcode. -/

namespace Sys2Proof.Machine

/-- A range is its first bytes, then the others. -/
theorem Memory.range_add (m : Memory) (start k n : Nat) : m.range start (k + n) = m.range start k ++ m.range (start + k) n := by
  simp [Memory.range, List.range_add, Nat.add_assoc]

/-- In position PL T.IDX is below 250, so counting it up never wraps (R33). -/
theorem Transactor.Inv.idx_succ_toNat {t : Transactor} (h : t.Inv) : (t.idx + 1).toNat = t.idx.toNat + 1 := by
  obtain ⟨-, -, hidx, -⟩ := h
  have hone : (1 : Byte).toNat = 1 := rfl
  refine BitVec.toNat_add_of_lt ?_
  simp only [Config.txBufCap] at hidx
  omega

/-- The test that ends the payload is a test of the count (R143, R144). -/
theorem Transactor.Inv.payload_ends_iff {t : Transactor} (h : t.Inv) :
    zext16 (t.idx + 1) = t.len ↔ t.idx.toNat + 1 = t.len.toNat := by
  rw [← BitVec.toNat_inj, zext16_toNat, h.idx_succ_toNat]

/-- The bounds of the payload position (R33, R142). -/
theorem Transactor.Inv.payload_bounds {t : Transactor} (h : t.Inv) (hp : t.phase = .scan) (hs : t.pos = .pl) :
    2 ≤ t.len.toNat ∧ t.len.toNat ≤ Config.txBufCap ∧ t.idx.toNat < t.len.toNat := by
  obtain ⟨-, hpl, -⟩ := h
  exact hpl hp hs

/-- Within the invariant the byte at PL is stored, and the last declared one completes the acknowledgement (R143, R144). -/
theorem scanByte_of_pl {b : Byte} {s : State} (h : s.T.Inv) (hp : s.T.phase = .scan) (hs : s.T.pos = .pl) :
    scanByte b s =
      if s.T.idx.toNat + 1 = s.T.len.toNat then execConfigAck (scanStore b s).T.echo (scanStore b s).T.rest (scanStore b s)
      else .next (scanStore b s) := by
  obtain ⟨-, hcap, hidx⟩ := h.payload_bounds hp hs
  have hbound : ¬ s.T.idx.toNat ≥ Config.txBufCap := by omega
  simp only [scanByte, hs, scanPayload, if_neg hbound, ← h.payload_ends_iff]
  rfl

/-- The echoed opcode and what follows it are the whole payload (R76, R144). -/
theorem Transactor.u16le_echo_append_rest {t : Transactor} (h : 2 ≤ t.len.toNat) :
    u16le t.echo ++ t.rest = t.buf.range 0 t.len.toNat := by
  obtain ⟨n, hn⟩ := Nat.exists_eq_add_of_le h
  rw [Transactor.rest, hn, Nat.add_sub_cancel_left, Memory.range_add]
  simp [Transactor.echo, Memory.range, List.range_succ]

/-- The payload that the last declared byte completes: the bytes stored before it, and it (R143 to R145). -/
theorem scanStore_payload {b : Byte} {s : State} (h : s.T.Inv) (hp : s.T.phase = .scan) (hs : s.T.pos = .pl)
    (hlast : s.T.idx.toNat + 1 = s.T.len.toNat) :
    u16le (scanStore b s).T.echo ++ (scanStore b s).T.rest = s.T.buf.range 0 s.T.idx.toNat ++ [b] := by
  have hlen := (h.payload_bounds hp hs).1
  obtain ⟨-, -, -, ⟨hwf, -⟩, -⟩ := h
  rw [Transactor.u16le_echo_append_rest (t := (scanStore b s).T) hlen, ← Memory.range_write_next b hwf, hlast]
  rfl

/-- The first two bytes of a payload are its opcode (R13, R144). -/
@[simp] theorem le16_getD_u16le_append (v : Half) (rest : List Byte) :
    le16 ((u16le v ++ rest).getD 0 0) ((u16le v ++ rest).getD 1 0) = v :=
  le16_byteOf v

/-- CONFIG_ACK in phase SCAN (R144, R145). -/
theorem execConfigAck_of_scan {echo : Half} {rest : List Byte} {s : State} (hp : s.T.phase = .scan) :
    execConfigAck echo rest s =
      if echo = s.T.op then .next { s with T := { s.T with ok := true, resp := u16le echo ++ rest, phase := .idle } }
      else .next { s with T := { s.T with pos := .h0 }, trace := s.trace ++ [.tOpcodeMismatch echo] } := by
  simp only [execConfigAck, hp]
  rfl

/-- Before the deadline the pass that stores the last declared byte is CONFIG_ACK, and the return if that ended the exchange
(R144, R149). -/
theorem exec_of_lastAckByte {i : Instr} {s : State} {b : Byte} {bs : List Byte} (hi : i.request.isSome = true)
    (hp : s.InPhase i .scan) (ht : (s.now - s.T.t0).toNat < s.T.tout.toNat) (hq : s.rxq = b :: bs) (hs : s.T.pos = .pl)
    (hinv : s.T.Inv) (hlast : s.T.idx.toNat + 1 = s.T.len.toNat) :
    exec i s = returning (fun t => t.returned i)
      (execConfigAck (scanStore b { s with rxq := bs }).T.echo (scanStore b { s with rxq := bs }).T.rest
        (scanStore b { s with rxq := bs })) := by
  rw [exec_of_inPhase_scan hi hp, scanPass_cons ht hq, scanByte_of_pl (s := { s with rxq := bs }) hinv hp.2 hs, if_pos hlast]

/-- Settles O13: positions L0 and L1, whose bounds are 2 and 250 (R141, R142). -/
theorem scanChecksTheLength : Obligations.ScanChecksTheLength := by
  intro i s b bs hi hp ht hq
  have hphase : s.T.phase = .scan := hp.2
  refine ⟨fun hs => ?l0, fun hs => ?l1⟩
  case l0 => exact exec_of_scanByte hi hp ht hq (t := scanLenLow b { s with rxq := bs }) (by simp only [scanByte, hs]) hphase
  case l1 =>
    refine exec_of_scanByte hi hp ht hq ?_ (by split <;> exact hphase)
    simp only [scanByte, hs, scanLenHigh, apply_ite Host.Outcome.next]
    rfl

/-- Settles O14: the byte is written at T.IDX, and a write is read back at its own index only (R143). -/
theorem scanStoresAPayloadByte : Obligations.ScanStoresAPayloadByte := by
  intro i s b bs hi hp ht hq hs hinv hmore
  have hbyte : scanByte b { s with rxq := bs } = .next (scanStore b { s with rxq := bs }) := by
    rw [scanByte_of_pl (s := { s with rxq := bs }) hinv hp.2 hs, if_neg (Nat.ne_of_lt hmore)]
  obtain ⟨-, -, -, ⟨hwf, -⟩, -⟩ := hinv
  exact ⟨s.T.buf.write s.T.idx.toNat b, exec_of_scanByte hi hp ht hq hbyte hp.2, Memory.wf_write _ b hwf,
    fun a => Memory.read_write _ b a hwf⟩

/-- Settles O15: the echo is not T.OP, so CONFIG_ACK restarts the scan (R144, R148). -/
theorem otherOpcodeRestartsTheScan : Obligations.OtherOpcodeRestartsTheScan := by
  intro i s b bs hi hp ht hq hs hinv hlast payload echo hne
  have hphase : s.T.phase = .scan := hp.2
  have hecho : (scanStore b { s with rxq := bs }).T.echo = echo := by
    simp only [echo, payload, ← scanStore_payload (b := b) (s := { s with rxq := bs }) hinv hp.2 hs hlast, le16_getD_u16le_append]
  rw [exec_of_lastAckByte hi hp ht hq hs hinv hlast, hecho, execConfigAck_of_scan (s := scanStore b { s with rxq := bs }) hphase,
    if_neg (by exact hne)]
  simp [returning, scanStore, hphase]

/-- Settles O16: the echo is T.OP, so CONFIG_ACK ends the exchange with the whole payload, and the operation returns
(R145, R150 to R157). -/
theorem matchingOpcodeEndsTheExchange : Obligations.MatchingOpcodeEndsTheExchange := by
  intro i s b bs hi hp ht hq hs hinv hlast payload hecho
  have hpayload := scanStore_payload (b := b) (s := { s with rxq := bs }) hinv hp.2 hs hlast
  have hop : (scanStore b { s with rxq := bs }).T.echo = s.T.op := by
    simpa only [payload, ← hpayload, le16_getD_u16le_append] using hecho
  rw [exec_of_lastAckByte hi hp ht hq hs hinv hlast,
    execConfigAck_of_scan (s := scanStore b { s with rxq := bs }) (by exact hp.2), if_pos (by exact hop), hpayload]
  rfl

/-- Settles O4: the last declared byte runs CONFIG_ACK, whose two outcomes leave T.PHASE in IDLE or in SCAN (R144, R149). -/
theorem acknowledgementRunsInThePassOfItsLastByte : Obligations.AcknowledgementRunsInThePassOfItsLastByte := by
  intro s i op args tout b bs hreq hp ht hs hinv hq hlast t
  have hi : i.request.isSome = true := by simp [hreq]
  have hstore : scanStore b { s with rxq := bs } = t := rfl
  rw [exec_of_lastAckByte hi hp (timedOut_eq_false_iff.1 ht) hq hs hinv (hinv.payload_ends_iff.1 hlast), hstore]
  show returning _ (exec (.configAck t.T.echo t.T.rest) t) = _
  cases exec (.configAck t.T.echo t.T.rest) t with
  | next u => simp only [returning]; split <;> rfl
  | fault f => rfl
  | refused r => rfl

/-- Settles O29: CONFIG_ACK reads T.PHASE first (R144, R145). -/
theorem configAckMatchesByOpcodeAlone : Obligations.ConfigAckMatchesByOpcodeAlone := by
  intro echo rest s
  refine ⟨fun hp => execConfigAck_of_scan hp, fun hp => ?_⟩
  show execConfigAck echo rest s = .next s
  unfold execConfigAck
  split
  · contradiction
  · rfl

end Sys2Proof.Machine
end

section
/-! PROOFS. What an instruction, and a step, can do, each as one list of named cases (R58): the rules about every step are case analyses of
these two. -/

namespace Sys2Proof.Machine

/-- The actions of the block: what `exec i` can make of `s`. -/
inductive Action (i : Instr) (s : State) : State → Prop
  /-- a refusal (R130, R161) -/
  | refuse (r : RefuseReason) : Action i s (s.refuse r)
  /-- an exchange start (R132) -/
  | start (op : Half) (args : List Byte) (tout : Millis) : i.request = some (op, args, tout) → s.T.phase = .idle →
      args.length ≤ Config.txArgMax → Action i s (s.startExchange i op args tout)
  /-- the check that ends the drain (R133) -/
  | drained : s.InPhase i .drain → s.rxq = [] → Action i s { s with T := { s.T with phase := .send } }
  /-- a byte discarded by the drain (R133) -/
  | discard (b : Byte) (bs : List Byte) : s.InPhase i .drain → s.rxq = b :: bs → Action i s { s with rxq := bs }
  /-- the write of the request with the scan start (R135, R137) -/
  | send : s.InPhase i .send → Action i s (s.writeBytes (encodeRequest s.T.op s.T.args)).startScan
  /-- a scan pass after which the scan goes on (R138) -/
  | scan (u : State) : s.InPhase i .scan → scanPass s = .next u → u.T.phase = .scan → Action i s u
  /-- the scan pass that ends the exchange, with the return (R145, R146) -/
  | finish (u : State) : s.InPhase i .scan → scanPass s = .next u → u.T.phase = .idle → Action i s (u.returned i)
  /-- a query (R173 to R176) -/
  | query (n : Bool) (v : Response) : s.running = none →
      Action i s { s with C := { s.C with new := n }, running := none, response := some v }
  /-- the return of UPDATE (R165) -/
  | updateReturns : s.T.phase = .idle → Action i s (s.respond .unit)
  /-- a byte taken by UPDATE (R165) -/
  | updateByte (b : Byte) (bs : List Byte) (t : State) : s.T.phase = .idle → s.rxq = b :: bs →
      feedByte b { s with rxq := bs, running := some .update } = .next t → Action i s t
  /-- a received frame named as the instruction, or an acknowledgement that nothing reads (R166 to R170) -/
  | frame (t : State) (tr : List Event) : i.isHostOp = false →
      t = { s with C := t.C, frameOut := t.frameOut, trace := s.trace ++ tr } → tr.length ≤ 1 → t.C.cfgMode = s.C.cfgMode →
      Action i s t
  /-- an acknowledgement named as the instruction, during a scan (R144, R145) -/
  | ack (t : State) (tr : List Event) : i.isHostOp = false → s.T.phase = .scan → t.rxq = s.rxq → ScanChange s t tr → Action i s t

/-- An action of an exchange. -/
theorem Action.of_exchangeOp {i : Instr} {op : Half} {args : List Byte} {tout : Millis} {s t : State}
    (hi : i.request = some (op, args, tout)) (h : exchangeOp i op args tout (fun u => u.returned i) s = .next t) : Action i s t := by
  rcases exchangeOp_next h with ⟨hp, -, rfl | ⟨hlen, rfl⟩⟩ | ⟨hr, hp, ⟨hq, rfl⟩ | ⟨b, bs, hq, rfl⟩⟩ | ⟨hr, hp, rfl⟩ |
    ⟨hr, hp, u, hu, ⟨hphase, rfl⟩ | ⟨hphase, rfl⟩⟩
  · exact .refuse .argLength
  · exact .start op args tout hi hp hlen
  · exact .drained ⟨hr, hp⟩ hq
  · exact .discard b bs ⟨hr, hp⟩ hq
  · exact .send ⟨hr, hp⟩
  · exact .finish u ⟨hr, hp⟩ hu hphase
  · exact .scan t ⟨hr, hp⟩ hu hphase

/-- An action of a host operation. -/
theorem Action.of_hostOp {i : Instr} {s t : State} (hi : i.isHostOp = true) (h : exec i s = .next t) : Action i s t := by
  rcases exec_host_next hi h with ⟨op, args, tout, hreq, h⟩ | ⟨-, -, hrun, rfl | ⟨n, v, rfl⟩⟩ | ⟨-, hp, -, h⟩
  · exact .of_exchangeOp hreq h
  · exact .refuse .readback
  · exact .query n v hrun
  · rcases updateAction_next h with ⟨-, rfl⟩ | ⟨b, bs, hq, hfeed⟩
    · exact .updateReturns hp
    · exact .updateByte b bs t hp hq hfeed

/-- REPORT_FRAME of any payload changes what a consumed frame changes (R168, R169). -/
theorem decodeReport_change (payload : List Byte) (s : State) :
    ∃ tr, s.decodeReport payload = { s with C := (s.decodeReport payload).C, trace := s.trace ++ tr } ∧ tr.length ≤ 1 ∧
      (s.decodeReport payload).C.cfgMode = s.C.cfgMode := by
  unfold State.decodeReport
  split
  · exact ⟨[], by simp [State.newReading], by simp, rfl⟩
  · exact ⟨_, rfl, by simp, rfl⟩

/-- What an instruction can do, in any state. -/
theorem exec_action {i : Instr} {s t : State} (h : exec i s = .next t) : Action i s t := by
  cases hi : i.isHostOp with
  | true => exact .of_hostOp hi h
  | false =>
    cases i <;> simp only [Instr.isHostOp, reduceCtorEq] at hi
    case reportFrame payload =>
      cases h
      obtain ⟨tr, ht, hlen, hcfg⟩ := decodeReport_change payload (s.emit (frameOf .report payload))
      exact .frame _ tr rfl (by rw [ht]; rfl) hlen hcfg
    case distanceReport d =>
      cases h
      exact .frame _ [] rfl (by simp [State.emit, State.newReading]) (by simp) rfl
    case configFrame payload =>
      cases h
      exact .frame _ [] rfl (by simp [State.emit, State.refreshLast]) (by simp) rfl
    case configAck echo rest =>
      by_cases hp : s.T.phase = .scan
      · have hack : execConfigAck echo rest s = .next t := h
        rw [execConfigAck_of_scan hp] at hack
        split at hack
        · cases hack; exact .ack _ [] rfl hp rfl ⟨by simp, by simp, .inr rfl, rfl, rfl, rfl, rfl⟩
        · cases hack; exact .ack _ _ rfl hp rfl ⟨rfl, by simp, .inl hp, rfl, rfl, rfl, rfl⟩
      · rw [(configAckMatchesByOpcodeAlone echo rest s).2 hp] at h
        cases h
        exact .frame _ [] rfl (by simp) (by simp) rfl

/-- The steps of the machine: an act of an outside agent, a step in which nothing acts, or an action of the block on the state with
the act taken off the schedule and FRAME_OUT cleared (R58, R204). -/
inductive StepCase (s : State) : State → Prop
  | rx (bytes : List Byte) (es : List Stimulus) (en : Endless) : s.nextAct = .rx bytes →
      StepCase s { s with agenda := es, endless := en, frameOut := none, rxq := s.rxq ++ bytes }
  | clk (c : Millis) (es : List Stimulus) (en : Endless) :
      StepCase s { s with agenda := es, endless := en, frameOut := none, now := c }
  | tx (n : Nat) (es : List Stimulus) (en : Endless) : s.nextAct = .tx n →
      StepCase s { s with agenda := es, endless := en, frameOut := none, txq := s.txq.drop n }
  | reset (es : List Stimulus) (en : Endless) : s.nextAct = .reset → StepCase s { s with agenda := es, endless := en }.resetBlock
  | idle (es : List Stimulus) (en : Endless) : StepCase s { s with agenda := es, endless := en, frameOut := none }
  | act (i : Instr) (es : List Stimulus) (en : Endless) (r : Option Response) (t : State) :
      (s.running = none ∧ i.isHostOp = true) ∨ s.running = some i →
      exec i { s with agenda := es, endless := en, frameOut := none, response := r } = .next t → StepCase s t

/-- What a step can do. -/
theorem step_cases {s t : State} (h : step s = .next t) : StepCase s t := by
  obtain ⟨-, es, en, -, hcase⟩ := step_next h
  rcases hcase with ⟨bytes, ha, rfl⟩ | ⟨c, -, rfl⟩ | ⟨n, ha, rfl⟩ | ⟨ha, rfl⟩ | ⟨-, -, rfl⟩ | ⟨i, -, -, rfl⟩ | ⟨i, -, hh, hr, hexec⟩ |
    ⟨i, -, hr, hexec⟩
  · exact .rx bytes es en ha
  · exact .clk c es en
  · exact .tx n es en ha
  · exact .reset es en ha
  · exact .idle es en
  · exact .idle es en
  · exact .act i es en none t (.inl ⟨hr, hh⟩) hexec
  · exact .act i es en s.response t (.inr hr) hexec

end Sys2Proof.Machine
end

section
/-! PROOFS. The rules that hold of every step in every state (R42, R185, R196, R135, R57): each is read off the list of actions. -/

namespace Sys2Proof.Machine

/-- An action raises at most one event (R196). -/
theorem Action.trace {i : Instr} {s t : State} (h : Action i s t) : ∃ es, t.trace = s.trace ++ es ∧ es.length ≤ 1 := by
  have quiet : ∀ u : State, u.trace = s.trace → ∃ es, u.trace = s.trace ++ es ∧ es.length ≤ 1 :=
    fun u hu => ⟨[], by simp [hu], by simp⟩
  cases h with
  | refuse | start | drained | discard | send | query | updateReturns => exact quiet _ rfl
  | scan u hp hu =>
    obtain ⟨-, tr, hu, hlen, -⟩ := scanPass_next hp.2 hu
    exact ⟨tr, by rw [hu], hlen⟩
  | finish u hp hu =>
    obtain ⟨-, tr, hu, hlen, -⟩ := scanPass_next hp.2 hu
    exact ⟨tr, by rw [hu]; rfl, hlen⟩
  | updateByte b bs t _ _ hfeed =>
    obtain ⟨-, tr, ht, hlen, -⟩ := feedByte_change hfeed
    exact ⟨tr, by rw [ht], hlen⟩
  | frame t tr _ ht hlen => exact ⟨tr, by rw [ht], hlen⟩
  | ack t tr _ _ _ ht => exact ⟨tr, by rw [ht.1], ht.2.1⟩

/-- Settles O58: an action raises at most one event, and no outside act raises any (R196). -/
theorem aStepRaisesAtMostOneEvent : Obligations.AStepRaisesAtMostOneEvent := by
  intro s t h
  cases step_cases h with
  | rx | clk | tx | reset | idle => exact ⟨[], by simp [State.resetBlock], by simp⟩
  | act i es en r t _ hexec => exact (exec_action hexec).trace

/-- An action clears no mark REFUSED (R42). -/
theorem Action.refused {i : Instr} {s t : State} (h : Action i s t) {r : RefuseReason} (hr : s.refused = some r) :
    t.refused = some r := by
  cases h with
  | refuse => simp [hr]
  | start | drained | discard | send | query | updateReturns => exact hr
  | scan u hp hu =>
    obtain ⟨-, tr, hu, -⟩ := scanPass_next hp.2 hu
    rw [hu]; exact hr
  | finish u hp hu =>
    obtain ⟨-, tr, hu, -⟩ := scanPass_next hp.2 hu
    rw [hu]; exact hr
  | updateByte b bs t _ _ hfeed =>
    obtain ⟨-, tr, ht, -⟩ := feedByte_change hfeed
    rw [ht]; exact hr
  | frame t tr _ ht => rw [ht]; exact hr
  | ack t tr _ _ _ ht => rw [ht.1]; exact hr

/-- A step clears no mark REFUSED (R42). -/
theorem step_refused {s t : State} (h : step s = .next t) {r : RefuseReason} (hr : s.refused = some r) : t.refused = some r := by
  cases step_cases h with
  | rx | clk | tx | reset | idle => exact hr
  | act i es en v t _ hexec => exact (exec_action hexec).refused hr

/-- Settles O49: a marked state steps to its fault and the record keeps the first mark; REFUSED is kept by every step (R42, R191). -/
theorem marksAreSticky : Obligations.MarksAreSticky := by
  intro s
  refine ⟨fun r hf => ?fault, fun r hr => ?refused⟩
  case fault =>
    have hstep : step s = .fault r := by simp only [step, hf]
    refine ⟨hstep, ?_⟩
    simp only [advance, hstep, State.record, State.markFault, hf, Option.some_or]
    rw [← hf]
  case refused =>
    unfold advance
    cases hstep : step s with
    | next t => exact step_refused hstep hr
    | fault | refused => exact hr

/-- An action writes TXQ only in phase SEND, where it appends the request and starts the scan (R135, R137). -/
theorem Action.txq {i : Instr} {s t : State} (h : Action i s t) :
    t.txq = s.txq ∨ (s.InPhase i .send ∧ t.T.phase = .scan ∧ t.txq = s.txq ++ encodeRequest s.T.op s.T.args) := by
  cases h with
  | send hp => exact .inr ⟨hp, rfl, rfl⟩
  | refuse | start | drained | discard | query | updateReturns => exact .inl rfl
  | scan u hp hu =>
    obtain ⟨-, tr, hu, -⟩ := scanPass_next hp.2 hu
    exact .inl (by rw [hu])
  | finish u hp hu =>
    obtain ⟨-, tr, hu, -⟩ := scanPass_next hp.2 hu
    exact .inl (by rw [hu]; rfl)
  | updateByte b bs t _ _ hfeed =>
    obtain ⟨-, tr, ht, -⟩ := feedByte_change hfeed
    exact .inl (by rw [ht])
  | frame t tr _ ht => exact .inl (by rw [ht])
  | ack t tr _ _ _ ht => exact .inl (by rw [ht.1])

/-- Settles O55: of the actions only the send writes TXQ, and of the outside acts only the environment's take (R135, R204). -/
theorem onlySendWritesTheOutput : Obligations.OnlySendWritesTheOutput := by
  intro s t h
  cases step_cases h with
  | rx | clk | reset | idle => exact .inl rfl
  | tx n _ _ ha => exact .inr (.inr ⟨n, ha, rfl⟩)
  | act i es en r t _ hexec =>
    rcases (exec_action hexec).txq with htxq | ⟨⟨hrun, hp⟩, hscan, htxq⟩
    · exact .inl htxq
    · have hrun : s.running = some i := hrun
      exact .inr (.inl ⟨hp, by simp [hrun], hscan, htxq⟩)

/-- An action takes at most the oldest byte of RXQ: UPDATE in phase IDLE, or the drain or the scan (R57). -/
theorem Action.rxq {i : Instr} {s t : State} (h : Action i s t) :
    t.rxq = s.rxq ∨ ∃ b, s.rxq = b :: t.rxq ∧
      (s.T.phase = .idle ∧ t.running = some .update ∧ t.T = s.T ∨ (s.T.phase = .drain ∨ s.T.phase = .scan) ∧ t.P = s.P) := by
  cases h with
  | refuse | start | drained | send | query | updateReturns => exact .inl rfl
  | discard b bs hp hq => exact .inr ⟨b, hq, .inr ⟨.inl hp.2, rfl⟩⟩
  | scan u hp hu =>
    obtain ⟨hrxq, tr, hu, -⟩ := scanPass_next hp.2 hu
    exact hrxq.imp id fun ⟨b, hb⟩ => ⟨b, hb, .inr ⟨.inr hp.2, by rw [hu]⟩⟩
  | finish u hp hu =>
    obtain ⟨hrxq, tr, hu, -⟩ := scanPass_next hp.2 hu
    exact hrxq.imp id fun ⟨b, hb⟩ => ⟨b, hb, .inr ⟨.inr hp.2, by rw [hu]; rfl⟩⟩
  | updateByte b bs t hp hq hfeed =>
    obtain ⟨-, tr, ht, -⟩ := feedByte_change hfeed
    exact .inr ⟨b, by rw [ht]; exact hq, .inl ⟨hp, by rw [ht], by rw [ht]⟩⟩
  | frame t tr _ ht => exact .inl (by rw [ht])
  | ack t tr _ _ hrxq => exact .inl hrxq

/-- Settles O56: an action takes at most the oldest byte, and of the outside acts only the append touches RXQ (R44, R46, R57). -/
theorem oneReaderTakesOneByte : Obligations.OneReaderTakesOneByte := by
  intro s t h
  cases step_cases h with
  | clk | tx | reset | idle => exact .inl rfl
  | rx bytes _ _ ha => exact .inr (.inl ⟨bytes, ha, rfl⟩)
  | act i es en r t _ hexec => exact (exec_action hexec).rxq.imp id .inr

/-- An action that ends an exchange is the return of the operation in flight, and it changes C.CFG_MODE by the operation's row after a
success only; every other action leaves C.CFG_MODE, and T.PHASE where it is not IDLE and becomes IDLE no other way but by an
acknowledgement that nothing reads (R150 to R152). -/
theorem Action.cfgMode {i : Instr} {s t : State} (h : Action i s t) :
    (t.C.cfgMode = s.C.cfgMode ∧ (s.T.phase ≠ .idle → t.T.phase = .idle → t.C = s.C)) ∨
    (s.InPhase i .scan ∧ t.T.phase = .idle ∧ t.running = none ∧
      t.C = { s.C with cfgMode := if t.T.ok then cfgModeAfter i s.C.cfgMode else s.C.cfgMode }) := by
  cases h with
  | refuse | start | drained | discard | send => exact .inl ⟨rfl, fun _ _ => rfl⟩
  | query => exact .inl ⟨rfl, fun hp hidle => absurd hidle hp⟩
  | updateReturns hp => exact .inl ⟨rfl, fun hne => absurd hp hne⟩
  | scan u hp hu =>
    obtain ⟨-, tr, hu, -⟩ := scanPass_next hp.2 hu
    exact .inl ⟨by rw [hu], fun _ _ => by rw [hu]⟩
  | finish u hp hu hidle =>
    obtain ⟨-, tr, hu, -⟩ := scanPass_next hp.2 hu
    have hC : u.C = s.C := by rw [hu]
    exact .inr ⟨hp, hidle, rfl, by simp only [State.returned, hC]⟩
  | updateByte b bs t hp _ hfeed =>
    obtain ⟨-, tr, ht, -, hcfg⟩ := feedByte_change hfeed
    exact .inl ⟨hcfg, fun hne => absurd hp hne⟩
  | frame t tr _ ht _ hcfg => exact .inl ⟨hcfg, fun hp hidle => absurd (by rw [ht] at hidle; exact hidle) hp⟩
  | ack t tr _ _ _ ht => exact .inl ⟨by rw [ht.1], fun _ _ => by rw [ht.1]⟩

/-- Only the rows ENTER_CFG and EXIT_CFG change C.CFG_MODE (R150 to R157). -/
theorem cfgModeAfter_ne {i : Instr} {before : Bool} (h : cfgModeAfter i before ≠ before) :
    (∃ tout, i = .enterCfg tout ∧ cfgModeAfter i before = true) ∨ (∃ tout, i = .exitCfg tout ∧ cfgModeAfter i before = false) := by
  cases i
  case enterCfg tout => exact .inl ⟨tout, rfl, rfl⟩
  case exitCfg tout => exact .inr ⟨tout, rfl, rfl⟩
  all_goals exact absurd rfl h

/-- Settles O54: C.CFG_MODE follows the operation's row in the step of a successful return, and no step but that one and a reset writes it
(R150 to R152). -/
theorem configModeChangesOnlyOnSuccess : Obligations.ConfigModeChangesOnlyOnSuccess := by
  intro s t h hreset
  cases step_cases h with
  | rx | clk | tx | idle => exact ⟨fun hne => absurd rfl hne, fun _ _ _ => rfl⟩
  | reset _ _ ha => exact absurd ha hreset
  | act i es en r t _ hexec =>
    rcases (exec_action hexec).cfgMode with ⟨hcfg, hC⟩ | ⟨⟨hrun, hp⟩, hidle, hfree, hC⟩
    · exact ⟨fun hne => absurd hcfg hne, fun hp hidle _ => hC hp hidle⟩
    · have hrun : s.running = some i := hrun
      have hp : s.T.phase = .scan := hp
      cases hok : t.T.ok <;> rw [hok] at hC
      case false => exact ⟨fun hne => absurd (by rw [hC]; rfl) hne, fun _ _ _ => hC⟩
      case true =>
        have hcfg : t.C.cfgMode = cfgModeAfter i s.C.cfgMode := by rw [hC]; rfl
        refine ⟨fun hne => ⟨hp, hidle, rfl, hfree, ?_⟩, fun _ _ hfail => absurd hfail (by simp)⟩
        rw [hcfg] at hne ⊢
        exact (cfgModeAfter_ne hne).imp (fun ⟨tout, hi, hv⟩ => ⟨tout, by rw [hrun, hi], hv⟩)
          (fun ⟨tout, hi, hv⟩ => ⟨tout, by rw [hrun, hi], hv⟩)

end Sys2Proof.Machine
end

section
/-! PROOFS. The invariant of the machine (R24 to R27, R29, R31 to R33): every action keeps the bounds of units P and T and the agreement
of T.PHASE with the operation in flight, so every step does. -/

namespace Sys2Proof.Machine

/-- A change of unit T that leaves the scan, or leads to a position other than L1 and PL, keeps the bounds (R31 to R33). -/
theorem Transactor.Inv.of_no_payload {t u : Transactor} (h : t.Inv) (hpos : u.phase = .scan → u.pos ≠ .l1 ∧ u.pos ≠ .pl)
    (hidx : u.idx = t.idx) (hbuf : u.buf = t.buf) (hargs : u.args.length ≤ Config.txArgMax) (hok : u.ok = t.ok)
    (hresp : u.resp = t.resp) : u.Inv := by
  obtain ⟨-, -, hi, hb, -, hr1, hr0⟩ := h
  refine ⟨fun hp hl1 => absurd hl1 (hpos hp).1, fun hp hpl => absurd hpl (hpos hp).2, ?_, ?_, hargs, ?_, ?_⟩
  · rwa [hidx]
  · rwa [hbuf]
  · rwa [hok, hresp]
  · rwa [hok, hresp]

theorem Transactor.Inv.args_le {t : Transactor} (h : t.Inv) : t.args.length ≤ Config.txArgMax := by
  obtain ⟨-, -, -, -, hargs, -⟩ := h
  exact hargs

/-- The failure of an exchange keeps the bounds: T.OK is 0 with T.RESP empty (R146). -/
theorem exchangeFails_inv {s : State} (h : s.T.Inv) : s.exchangeFails.T.Inv := by
  obtain ⟨-, -, hidx, hbuf, hargs, -, -⟩ := h
  exact ⟨by simp, by simp, hidx, hbuf, hargs, by simp, by simp⟩

/-- A stored payload byte that is not the last keeps the bounds (R143). -/
theorem scanStore_inv {b : Byte} {s : State} (h : s.T.Inv) (hp : s.T.phase = .scan) (hs : s.T.pos = .pl)
    (hmore : s.T.idx.toNat + 1 ≠ s.T.len.toNat) : (scanStore b s).T.Inv := by
  obtain ⟨hmin, hcap, hidx⟩ := h.payload_bounds hp hs
  have hsucc := h.idx_succ_toNat
  obtain ⟨-, -, -, hbuf, hargs, hr1, hr0⟩ := h
  have hstored : (scanStore b s).T.idx.toNat < s.T.len.toNat := by
    simp only [scanStore, hsucc]
    omega
  exact ⟨fun _ hl1 => absurd (hs.symm.trans hl1) (by simp), fun _ _ => ⟨hmin, hcap, hstored⟩, by omega,
    hbuf.write b (by omega), hargs, hr1, hr0⟩

/-- CONFIG_ACK on the last stored byte keeps the bounds: its payload is the T.LEN bytes, 2 to 250 (R145). -/
theorem execConfigAck_inv {b : Byte} {s t : State} (h : s.T.Inv) (hp : s.T.phase = .scan) (hs : s.T.pos = .pl)
    (hlast : s.T.idx.toNat + 1 = s.T.len.toNat)
    (ht : execConfigAck (scanStore b s).T.echo (scanStore b s).T.rest (scanStore b s) = .next t) : t.T.Inv := by
  obtain ⟨hmin, hcap, -⟩ := h.payload_bounds hp hs
  have hpayload := scanStore_payload (b := b) h hp hs hlast
  have hsucc := h.idx_succ_toNat
  obtain ⟨-, -, -, hbuf, hargs, hr1, hr0⟩ := h
  have hidx : (scanStore b s).T.idx.toNat ≤ Config.txBufCap := by
    simp only [scanStore, hsucc]
    omega
  have hbuf : (scanStore b s).T.buf.Within Config.txBufCap := hbuf.write b (by omega)
  rw [execConfigAck_of_scan (s := scanStore b s) hp, hpayload] at ht
  split at ht
  · cases ht
    have hlen : (s.T.buf.range 0 s.T.idx.toNat ++ [b]).length = s.T.len.toNat := by simp [hlast]
    exact ⟨by simp, by simp, hidx, hbuf, hargs, fun _ => by simpa only [hlen] using ⟨hmin, hcap⟩, by simp⟩
  · cases ht
    exact ⟨by simp, by simp, hidx, hbuf, hargs, hr1, hr0⟩

/-- The payload begins with the bounds kept, when its length is 2 to 250 (R142). -/
theorem Transactor.Inv.payload_begins {t : Transactor} (h : t.Inv) {len : Half} (hlen : 2 ≤ len.toNat ∧ len.toNat ≤ Config.txBufCap) :
    Transactor.Inv { t with len := len, idx := 0, pos := .pl } := by
  obtain ⟨-, -, -, hbuf, hargs, hr1, hr0⟩ := h
  have hzero : (0 : Byte).toNat < len.toNat := Nat.lt_of_lt_of_le Nat.two_pos hlen.1
  exact ⟨by simp, fun _ _ => ⟨hlen.1, hlen.2, hzero⟩, by simp, hbuf, hargs, hr1, hr0⟩

/-- The byte of a scan pass keeps the bounds (R140 to R145). -/
theorem scanByte_inv {b : Byte} {s t : State} (h : s.T.Inv) (hp : s.T.phase = .scan) (ht : scanByte b s = .next t) : t.T.Inv := by
  have hheader : ∀ k good, good ≠ .l1 → good ≠ .pl → (scanHeader b k good s).T.Inv := by
    intro k good hl1 hpl
    unfold scanHeader
    split
    · exact h.of_no_payload (fun _ => ⟨hl1, hpl⟩) rfl rfl h.args_le rfl rfl
    · exact h.of_no_payload (by simp) rfl rfl h.args_le rfl rfl
  cases hs : s.T.pos
  case pl =>
    rw [scanByte_of_pl h hp hs] at ht
    split at ht
    · next hlast => exact execConfigAck_inv h hp hs hlast ht
    · next hmore => cases ht; exact scanStore_inv h hp hs hmore
  all_goals
    simp only [scanByte, hs, Host.Outcome.next.injEq] at ht
    subst ht
  case h0 => exact h.of_no_payload (fun _ => by simp only [scanStart]; split <;> simp) rfl rfl h.args_le rfl rfl
  case h1 => exact hheader 1 .h2 (by simp) (by simp)
  case h2 => exact hheader 2 .h3 (by simp) (by simp)
  case h3 => exact hheader 3 .l0 (by simp) (by simp)
  case l0 =>
    obtain ⟨-, -, hidx, hbuf, hargs, hr1, hr0⟩ := h
    exact ⟨fun _ _ => by simpa [scanLenLow] using b.isLt, by simp [scanLenLow], hidx, hbuf, hargs, hr1, hr0⟩
  case l1 =>
    unfold scanLenHigh
    simp only
    split
    · exact h.of_no_payload (by simp) rfl rfl h.args_le rfl rfl
    · next hlen =>
      rw [not_or, Nat.not_lt, Nat.not_lt] at hlen
      exact h.payload_begins hlen

/-- A scan pass keeps the bounds (R138, R139). -/
theorem scanPass_inv {s t : State} (h : s.T.Inv) (hp : s.T.phase = .scan) (ht : scanPass s = .next t) : t.T.Inv := by
  by_cases htime : (s.now - s.T.t0).toNat < s.T.tout.toNat
  · cases hq : s.rxq with
    | nil => rw [scanPass_nil htime hq] at ht; cases ht; exact h
    | cons b bs => rw [scanPass_cons htime hq] at ht; exact scanByte_inv (s := { s with rxq := bs }) h hp ht
  · rw [scanPass_of_timedOut (by omega)] at ht
    cases ht
    exact exchangeFails_inv h

/-- The operations that exchange are requested on the host port (R86). -/
theorem Instr.isHostOp_of_request {i : Instr} (h : i.request.isSome = true) : i.isHostOp = true := by
  cases i <;> simp [Instr.request, Instr.isHostOp] at h ⊢

/-- With the port free no exchange is in flight (R29, R49). -/
theorem State.PortInv.idle_of_free {s : State} (h : s.PortInv) (hr : s.running = none) : s.T.phase = .idle := by
  rcases h with ⟨-, hp⟩ | ⟨-, hp⟩ | ⟨hreq, -⟩
  · exact hp
  · exact hp
  · rw [hr] at hreq; cases hreq

/-- An exchange in flight is that of the operation that runs (R29, R49). -/
theorem State.PortInv.request_of_running {s : State} {i : Instr} (h : s.PortInv) (hr : s.running = some i) (hp : s.T.phase ≠ .idle) :
    i.request = some (s.T.op, s.T.args, s.T.tout) := by
  rcases h with ⟨-, hidle⟩ | ⟨-, hidle⟩ | ⟨hreq, -⟩
  · exact absurd hidle hp
  · exact absurd hidle hp
  · rwa [hr] at hreq

/-- What runs is an operation of the host port (R49). -/
theorem State.PortInv.isHostOp {s : State} {i : Instr} (h : s.PortInv) (hr : s.running = some i) : i.isHostOp = true := by
  rcases h with ⟨hfree, -⟩ | ⟨hup, -⟩ | ⟨hreq, -⟩
  · rw [hr] at hfree; cases hfree
  · rw [hr] at hup; cases hup; rfl
  · rw [hr] at hreq; exact Instr.isHostOp_of_request (by rw [show i.request = _ from hreq]; rfl)

/-- While an exchange goes on, the port keeps agreeing with it when the request registers stay (R29, R31). -/
theorem State.PortInv.of_exchange {s t : State} {i : Instr} (h : s.PortInv) (hr : s.running = some i) (hp : s.T.phase ≠ .idle)
    (htr : t.running = some i) (htp : t.T.phase ≠ .idle) (hreq : (t.T.op, t.T.args, t.T.tout) = (s.T.op, s.T.args, s.T.tout)) :
    t.PortInv :=
  .inr (.inr ⟨by rw [htr, hreq]; exact h.request_of_running hr hp, htp⟩)

/-- A byte fed to the parser within its invariant leaves it within its invariant, and a frame on FRAME_OUT is well formed (R27, R28). -/
theorem feedByte_inv {b : Byte} {s t : State} (h : s.P.Inv) (hf : s.frameOut = none) (ht : feedByte b s = .next t) :
    t.P.Inv ∧ t.T = s.T ∧ t.running = s.running ∧ t.frameOut.all (fun f => decide f.WellFormed) = true := by
  obtain ⟨tr, -, hfeed⟩ := feedByte_next b s h
  rw [hfeed] at ht
  cases ht
  refine ⟨parserStep_inv b h, rfl, rfl, ?_⟩
  cases hemit : (parserStep s.P b).2.2 with
  | none => simp [hf]
  | some f =>
    obtain ⟨hs, -, rfl, -⟩ := parserStep_emits hemit
    simpa [hemit] using h.frame_wellFormed hs

/-- An action of a host operation keeps the invariant. -/
theorem Action.inv {i : Instr} {s t : State} (h : Action i s t) (hs : s.Inv) (hf : s.frameOut = none) (hi : i.isHostOp = true) :
    t.Inv := by
  obtain ⟨hP, hT, hport, hout⟩ := hs
  cases h with
  | refuse => exact ⟨hP, hT, hport, hout⟩
  | start op args tout hreq _ hlen => exact ⟨hP, hT.of_no_payload (by simp) rfl rfl hlen rfl rfl, .inr (.inr ⟨hreq, by simp⟩), hout⟩
  | drained hp =>
    obtain ⟨hrun, hphase⟩ := hp
    exact ⟨hP, hT.of_no_payload (by simp) rfl rfl hT.args_le rfl rfl, hport.of_exchange hrun (by simp [hphase]) hrun (by simp) rfl, hout⟩
  | discard => exact ⟨hP, hT, hport, hout⟩
  | send hp =>
    obtain ⟨hrun, hphase⟩ := hp
    exact ⟨hP, hT.of_no_payload (by simp) rfl rfl hT.args_le rfl rfl, hport.of_exchange hrun (by simp [hphase]) hrun (by simp) rfl, hout⟩
  | scan u hp hu hscan =>
    obtain ⟨hrun, hphase⟩ := hp
    obtain ⟨-, tr, ht, -, -, hop, hargs, htout, -⟩ := scanPass_next hphase hu
    refine ⟨by rw [ht]; exact hP, scanPass_inv hT hphase hu, ?_, by rw [ht]; exact hout⟩
    exact hport.of_exchange hrun (by simp [hphase]) (by rw [ht]; exact hrun) (by simp [hscan]) (by rw [hop, hargs, htout])
  | finish u hp hu hidle =>
    obtain ⟨-, tr, ht, -⟩ := scanPass_next hp.2 hu
    have hT' : u.T.Inv := scanPass_inv hT hp.2 hu
    refine ⟨?_, hT', .inl ⟨rfl, hidle⟩, ?_⟩
    · simp only [State.returned]; rw [ht]; exact hP
    · simp only [State.returned]; rw [ht]; exact hout
  | query n v hrun => exact ⟨hP, hT, .inl ⟨rfl, hport.idle_of_free hrun⟩, hout⟩
  | updateReturns hidle => exact ⟨hP, hT, .inl ⟨rfl, hidle⟩, hout⟩
  | updateByte b bs t hidle _ hfeed =>
    obtain ⟨hP, hT', hrun, hout⟩ := feedByte_inv (s := { s with rxq := bs, running := some .update }) hP hf hfeed
    exact ⟨hP, by rw [hT']; exact hT, .inr (.inl ⟨hrun, by rw [hT']; exact hidle⟩), hout⟩
  | frame t tr hno => exact absurd hi (by simp [hno])
  | ack t tr hno => exact absurd hi (by simp [hno])

/-- The block created anew meets the invariant (R210; the values R210 leaves open are the model's, log 4 and 7). -/
theorem resetBlock_inv (s : State) : s.resetBlock.Inv := by
  have hP : Parser.reset.Inv := by decide
  have hT : Transactor.reset.Inv := by decide
  exact ⟨hP, hT, .inl ⟨rfl, rfl⟩, rfl⟩

/-- Settles O52: an action keeps the invariant, and an outside act touches nothing it speaks of but by a reset (R24 to R33). -/
theorem stepKeepsTheInvariant : Obligations.StepKeepsTheInvariant := by
  intro s t hs h
  have hs' := hs
  obtain ⟨hP, hT, hport, -⟩ := hs'
  cases step_cases h with
  | rx | clk | tx | idle => exact ⟨hP, hT, hport, rfl⟩
  | reset => exact resetBlock_inv _
  | act i es en r t hrun hexec => exact (exec_action hexec).inv ⟨hP, hT, hport, rfl⟩ rfl (hrun.elim And.right hport.isHostOp)

/-- Settles O50: the reset state is the block created anew, so it meets the invariant (R210). -/
theorem resetState : Obligations.ResetState :=
  ⟨rfl, rfl, rfl, rfl, rfl, rfl, rfl, rfl, rfl, resetBlock_inv State.reset⟩

/-- An action during an exchange leaves unit P alone, and of unit C all but C.CFG_MODE (R125, R132, R162). -/
theorem Action.of_exchange_in_flight {i : Instr} {s t : State} (h : Action i s t) (hi : i.isHostOp = true) (hrun : s.running.isSome = true)
    (hp : s.T.phase ≠ .idle) : t.P = s.P ∧ t.C = { s.C with cfgMode := t.C.cfgMode } ∧ t.frameOut = s.frameOut := by
  cases h with
  | refuse | start | drained | discard | send => exact ⟨rfl, rfl, rfl⟩
  | query _ _ hfree => rw [hfree] at hrun; cases hrun
  | updateReturns hidle => exact absurd hidle hp
  | updateByte _ _ _ hidle => exact absurd hidle hp
  | frame t tr hno => exact absurd hi (by simp [hno])
  | ack t tr hno => exact absurd hi (by simp [hno])
  | scan u hp hu =>
    obtain ⟨-, tr, ht, -⟩ := scanPass_next hp.2 hu
    exact ⟨by rw [ht], by rw [ht], by rw [ht]⟩
  | finish u hp hu =>
    obtain ⟨-, tr, ht, -⟩ := scanPass_next hp.2 hu
    simp only [State.returned]
    exact ⟨by rw [ht], by rw [ht], by rw [ht]⟩

/-- Settles O53: with an exchange in flight the operation that runs is the one that makes it, and its actions write neither unit P nor
the reading (R125, R132, R162). -/
theorem exchangeLeavesParserAndReadingAlone : Obligations.ExchangeLeavesParserAndReadingAlone := by
  intro s t hport hp hreset h
  cases step_cases h with
  | rx | clk | tx | idle => exact ⟨rfl, rfl, rfl⟩
  | reset _ _ ha => exact absurd ha hreset
  | act i es en r t hrun hexec =>
    have hrun : s.running = some i := hrun.resolve_left fun hfree => hp (hport.idle_of_free hfree.1)
    exact (exec_action hexec).of_exchange_in_flight (hport.isHostOp hrun) (by simp [hrun]) hp

/-- An action of a host operation drives FRAME_OUT only by the last footer byte, which UPDATE takes (R28, R120, R195). -/
theorem Action.frameOut {i : Instr} {s t : State} (h : Action i s t) (hi : i.isHostOp = true) (hP : s.P.Inv) (hf : s.frameOut = none)
    {f : Frame} (hout : t.frameOut = some f) :
    s.P.state = .wf4 ∧ s.rxq = ftrByte s.P.alph 3 :: t.rxq ∧ f = s.P.frame ∧ t.P.state = .wh1 := by
  have silent : t.frameOut = s.frameOut → False := fun hsame => by rw [hsame, hf] at hout; cases hout
  cases h with
  | refuse | start | drained | discard | send | query | updateReturns => exact (silent rfl).elim
  | frame t tr hno => exact absurd hi (by simp [hno])
  | ack t tr hno => exact absurd hi (by simp [hno])
  | scan u hp hu =>
    obtain ⟨-, tr, ht, -⟩ := scanPass_next hp.2 hu
    exact (silent (by rw [ht])).elim
  | finish u hp hu =>
    obtain ⟨-, tr, ht, -⟩ := scanPass_next hp.2 hu
    exact (silent (by simp only [State.returned]; rw [ht])).elim
  | updateByte b bs t hidle hq hfeed =>
    obtain ⟨tr, -, hnext⟩ := feedByte_next b { s with rxq := bs, running := some .update } hP
    rw [hnext] at hfeed
    cases hfeed
    cases hemit : (parserStep s.P b).2.2 with
    | none => exact (silent (by simp [hemit])).elim
    | some g =>
      obtain ⟨hs, rfl, rfl, hstep⟩ := parserStep_emits hemit
      simp only [hemit, Option.some_or, Option.some.injEq] at hout
      exact ⟨hs, hq, hout.symm, by simp only [hstep]⟩

/-- Settles O57: FRAME_OUT is cleared before the act, and of the actions only UPDATE's on the last footer byte drives it (R28, R195). -/
theorem frameOutIsDrivenOnlyByTheLastFooterByte : Obligations.FrameOutIsDrivenOnlyByTheLastFooterByte := by
  intro s t f hP hport h hout
  cases step_cases h with
  | rx | clk | tx | idle | reset => cases hout
  | act i es en r t hrun hexec => exact (exec_action hexec).frameOut (hrun.elim And.right hport.isHostOp) hP rfl hout

end Sys2Proof.Machine
end

section
/-! PROOFS. The step (R49, R58, R204): a request and a turn of the block run one action, an outside act changes its port, and the schedule
is the agenda, then the endless acts. -/

namespace Sys2Proof.Machine

/-- Settles O1: the port is free, so the request is no breach and runs (R49, R190). -/
theorem requestedOperationRunsInOneStep : Obligations.RequestedOperationRunsInOneStep := by
  intro s i hf ha hi hfree
  have hno : s.takeAct.clearFrameOut.requestFault i = none := requestFault_eq_none.2 (by simp [hfree])
  rw [step_of_unfaulted hf, ha]
  simp only [act, hostRequest, if_pos hi, hno]
  rfl

/-- Settles O2: the turn is the block's (R58). -/
theorem operationInFlightRunsInOneStep : Obligations.OperationInFlightRunsInOneStep := by
  intro s i hf hrun ha
  rw [step_of_unfaulted hf, ha]
  have hrun' : s.takeAct.clearFrameOut.running = some i := by simp [hrun]
  simp only [act, blockTurn, hrun']
  rfl

/-- A request that meets a breach faults with it (R190). -/
theorem step_of_requestFault {s : State} {i : Instr} {f : Fault} (hf : s.fault = none) (ha : s.nextAct = .call i)
    (hi : i.isHostOp = true) (hfault : s.takeAct.clearFrameOut.requestFault i = some f) : step s = .fault f := by
  rw [step_of_unfaulted hf, ha]
  simp only [act, hostRequest, if_pos hi, hfault]

/-- UPDATE requested while an exchange is in flight is the interleaving breach (R44, R190). -/
theorem requestFault_update {s : State} (hrun : s.running.isSome = true) (hp : s.T.phase ≠ .idle) :
    s.takeAct.clearFrameOut.requestFault .update = some .hostInterleave := by
  simp [State.requestFault, Option.isSome_iff_ne_none.1 hrun, hp]

/-- Any other request while an operation runs is the re-entry breach (R49, R190). -/
theorem requestFault_reentry {s : State} {i : Instr} (hrun : s.running.isSome = true) (hi : i ≠ .update ∨ s.T.phase = .idle) :
    s.takeAct.clearFrameOut.requestFault i = some .hostReentry := by
  have hother : ¬ (i = .update ∧ s.T.phase ≠ .idle) := fun ⟨hu, hp⟩ => hi.elim (· hu) hp
  simp [State.requestFault, Option.isSome_iff_ne_none.1 hrun, hother]

/-- Settles O45: UPDATE tests T.PHASE first, and so does the host port (R44, R190). -/
theorem interleavedUpdateFaults : Obligations.InterleavedUpdateFaults := by
  intro s hp
  refine ⟨?_, fun hf hrun ha => step_of_requestFault hf ha rfl (requestFault_update hrun hp)⟩
  show execUpdate s = .fault .hostInterleave
  rw [execUpdate, if_pos hp]

/-- Settles O46: the host port faults before the operation is looked at (R190, R192). -/
theorem reentrantRequestFaults : Obligations.ReentrantRequestFaults :=
  fun _ _ hf hrun ha hi hother => step_of_requestFault hf ha hi (requestFault_reentry hrun hother)

/-- Settles O51: a reset of the block writes units, FRAME_OUT and host port, and nothing else (R42, R210, R212). -/
theorem resetLeavesStreamsClockAndMarks : Obligations.ResetLeavesStreamsClockAndMarks := by
  intro s hf ha
  refine ⟨s.takeAct.clearFrameOut.resetBlock, by rw [step_of_unfaulted hf, ha]; rfl, ?_⟩
  simp [State.resetBlock, Parser.reset, Transactor.reset, Consumer.resetAt]

/-- Settles O5: each outside act is one update of its port; the schedule's forms are the rules of `nextAct` and `takeAct` (R46, R47, R204). -/
theorem outsideActsChangeOnlyTheirPort : Obligations.OutsideActsChangeOnlyTheirPort := by
  intro s
  refine ⟨fun e es h => ⟨State.nextAct_agenda h, State.takeAct_of_agenda h⟩,
    fun e es h hc => ⟨State.nextAct_cycle h hc, State.takeAct_of_cycle h hc⟩,
    fun n h hc => ⟨State.nextAct_free h hc, State.takeAct_of_free h hc⟩, fun hf => ?_⟩
  rw [step_of_unfaulted hf]
  refine ⟨fun bytes ha => ?rx, fun t ha => ?clk, fun n ha => ?tx, fun ha hrun => ?block, fun i ha hi => ?call⟩ <;> rw [ha]
  case rx => simp [act, State.appendRx, State.clearFrameOut]
  case clk => simp [act, State.setClock, State.clearFrameOut]
  case tx => simp [act, State.takeTx, State.clearFrameOut]
  case block => simp [act, blockTurn, State.clearFrameOut, hrun]
  case call => simp [act, hostRequest, State.clearFrameOut, hi]

end Sys2Proof.Machine
end

section
/-! PROOFS. UPDATE, one pass of its loop at a time (R165, R166, R183): within the parser's invariant a pass returns or is the parser step of
the oldest byte with the consumption of the frame it emits. -/

namespace Sys2Proof.Machine

/-- With T.PHASE IDLE and no other operation in flight UPDATE is the next pass of its loop (R165). -/
theorem exec_update {s : State} (hp : s.T.phase = .idle) (hrun : s.running = none ∨ s.running = some .update) :
    exec .update s = updateAction s := by
  have hother : s.busyWithOther .update = false := by rcases hrun with hrun | hrun <;> simp [State.busyWithOther, hrun]
  show execUpdate s = updateAction s
  simp [execUpdate, hp, hother]

/-- On an empty RXQ the pass returns (R165). -/
theorem updateAction_nil {s : State} (hq : s.rxq = []) : updateAction s = .next (s.respond .unit) := by
  simp [updateAction, avail_eq_zero.2 hq]

/-- With a byte waiting the pass takes it (R165). -/
theorem updateAction_cons {s : State} {b : Byte} {bs : List Byte} (hq : s.rxq = b :: bs) :
    updateAction s = feedByte b { s with rxq := bs, running := some .update } := by
  have havail : s.avail ≠ 0 := by simp [avail_eq_zero, hq]
  simp [updateAction, havail, readByte_cons hq, State.run]

/-- Settles O30: the two passes of UPDATE's loop (R165). -/
theorem updateParsesOneByteAtATime : Obligations.UpdateParsesOneByteAtATime := by
  intro s hp hrun
  rw [exec_update hp hrun]
  refine ⟨fun hq => updateAction_nil hq, fun b bs hq hP hnone => ?_⟩
  rw [updateAction_cons hq, feedByte_of_none (s := { s with rxq := bs, running := some .update }) hP hnone]

/-- The last footer byte through the parser: the frame it emits runs its row in the same action (R58, R120, R166). -/
theorem feedByte_of_last {b : Byte} {s : State} (hP : s.P.Inv) (hs : s.P.state = .wf4) (hb : b = ftrByte s.P.alph 3) :
    feedByte b s = exec (Instr.ofFrame s.P.frame) { s with P := { s.P with state := .wh1 } } := by
  rw [← consume_eq_exec, feedByte, hP.not_readsPast, parserStep_of_last hs hb]
  rfl

/-- Settles O3: the step is a pass of UPDATE on the last footer byte (R166). -/
theorem receivedFrameRunsInTheStepOfItsLastByte : Obligations.ReceivedFrameRunsInTheStepOfItsLastByte := by
  intro s b bs hf hrun hp hP hs hq hb ha
  rw [operationInFlightRunsInOneStep s .update hf hrun ha, exec_update (by simpa using hp) (.inr (by simpa using hrun)),
    updateAction_cons (b := b) (bs := bs) (by simpa using hq),
    feedByte_of_last (by simpa using hP) (by simpa using hs) (by simpa using hb)]
  simp [hrun]

/-- Settles O32: a pass returns, or takes the oldest byte and feeds it, which leaves all of this alone (R183). -/
theorem updateFrame : Obligations.UpdateFrame := by
  intro s t h
  obtain ⟨-, -, hpass⟩ := execUpdate_next h
  rcases updateAction_next hpass with ⟨-, rfl⟩ | ⟨b, bs, hq, hfeed⟩
  · simp
  · obtain ⟨-, tr, ht, -, hcfg⟩ := feedByte_change hfeed
    exact ⟨by rw [ht], by rw [ht], hcfg, by rw [ht], by rw [ht], by rw [ht], by rw [ht], by rw [ht], by rw [ht],
      .inr ⟨b, by rw [ht]; exact hq⟩⟩

end Sys2Proof.Machine
end

section
/-! PROOFS. The read-backs (R161), the staleness test (R176, R178) and the received reports (R168, R169). -/

namespace Sys2Proof.Machine

/-- Settles O19: on a free port the refusal is the whole effect (R161, R192). -/
theorem readBacksOnlyMarkRefused : Obligations.ReadBacksOnlyMarkRefused := by
  rintro i s (rfl | rfl | rfl | rfl) hfree <;> exact State.whenFree_of_free hfree _

/-- Settles O24: on a free port the answer is the staleness test (R176). -/
theorem isConnectedIsTheStalenessTest : Obligations.IsConnectedIsTheStalenessTest := by
  intro s hfree
  show s.whenFree (s.respond (.bool s.connected)) = _
  rw [State.whenFree_of_free hfree, State.respond_of_free hfree]
  rfl

/-- Settles O25: the elapsed time is `d`, since clock readings are counted modulo 2^32 (R61, R178). -/
theorem connectionLastsThreeSeconds : Obligations.ConnectionLastsThreeSeconds := by
  intro s d hfree hnow
  have helapsed : s.now - s.C.lastT = d := by rw [hnow, BitVec.add_comm, BitVec.add_sub_cancel]
  rw [isConnectedIsTheStalenessTest s hfree, helapsed]

/-- Settles O26: both rows write the reading that the four bytes are (R168). -/
theorem distanceReportIsTheNewReading : Obligations.DistanceReportIsTheNewReading := by
  intro d s
  refine ⟨rfl, ?_⟩
  show Host.Outcome.next ((s.emit (frameOf .report (u32le d))).newReading _) = .next ((s.emit (frameOf .report (u32le d))).newReading d)
  rw [le32_byteOf]

/-- A report of any length but 4 only raises an event (R169). -/
theorem decodeReport_of_length_ne {payload : List Byte} (h : payload.length ≠ 4) (s : State) :
    s.decodeReport payload = s.raise (.cReportBadLen (BitVec.ofNat 16 payload.length)) := by
  unfold State.decodeReport
  split
  · exact absurd rfl h
  · rfl

/-- Settles O27: the frame is on FRAME_OUT and its length is not 4 (R169). -/
theorem otherReportIsIgnored : Obligations.OtherReportIsIgnored := by
  intro payload s h
  show Host.Outcome.next ((s.emit (frameOf .report payload)).decodeReport payload) = _
  rw [decodeReport_of_length_ne h]
  rfl

end Sys2Proof.Machine
end

section
/-! PROOFS. Faults (R190): each is a breach by the host, or an index that no state within the invariant has; so no step reads an empty
stream, and from an invariant state only a breach stops the machine. -/

namespace Sys2Proof.Machine

/-- An acknowledgement never faults (R145, R148). -/
theorem execConfigAck_ne_fault (echo : Half) (rest : List Byte) (s : State) (f : Fault) : execConfigAck echo rest s ≠ .fault f := by
  unfold execConfigAck
  split
  · split <;> simp
  · simp

/-- A payload byte faults only past the end of T.BUF (log 8). -/
theorem scanPayload_fault {b : Byte} {s : State} {f : Fault} (h : scanPayload b s = .fault f) :
    f = .noSuchIndex ∧ s.T.idx.toNat ≥ Config.txBufCap := by
  simp only [scanPayload] at h
  split at h
  · next hidx => cases h; exact ⟨rfl, hidx⟩
  · split at h
    · exact absurd h (execConfigAck_ne_fault _ _ _ _)
    · cases h

/-- The byte of a scan pass faults only at PL, past the end of T.BUF (log 8). -/
theorem scanByte_fault {b : Byte} {s : State} {f : Fault} (h : scanByte b s = .fault f) :
    f = .noSuchIndex ∧ s.T.pos = .pl ∧ s.T.idx.toNat ≥ Config.txBufCap := by
  cases hpos : s.T.pos with
  | pl =>
    obtain ⟨hf, hidx⟩ := scanPayload_fault (by simpa only [scanByte, hpos] using h)
    exact ⟨hf, rfl, hidx⟩
  | h0 | h1 | h2 | h3 | l0 | l1 => simp [scanByte, hpos] at h

/-- A scan pass faults only so (R138). -/
theorem scanPass_fault {s : State} {f : Fault} (h : scanPass s = .fault f) :
    f = .noSuchIndex ∧ s.T.pos = .pl ∧ s.T.idx.toNat ≥ Config.txBufCap := by
  by_cases htime : (s.now - s.T.t0).toNat < s.T.tout.toNat
  · cases hq : s.rxq with
    | nil => rw [scanPass_nil htime hq] at h; cases h
    | cons b bs => rw [scanPass_cons htime hq] at h; exact scanByte_fault (s := { s with rxq := bs }) h
  · rw [scanPass_of_timedOut (by omega)] at h
    cases h

/-- A pass of UPDATE faults only past the end of P.BUF (log 8). -/
theorem updateAction_fault {s : State} {f : Fault} (h : updateAction s = .fault f) :
    f = .noSuchIndex ∧ ∃ b, s.P.readsPast b = true := by
  cases hq : s.rxq with
  | nil => rw [updateAction_nil hq] at h; cases h
  | cons b bs =>
    rw [updateAction_cons hq] at h
    unfold feedByte at h
    split at h
    · next hpast => cases h; exact ⟨rfl, b, hpast⟩
    · split at h
      · cases h
      · next p ev fr _ =>
        obtain ⟨t, tr, ht, -⟩ :=
          consume_change fr ({ s with rxq := bs, running := some .update, P := p } |>.raiseAll ev)
        rw [ht] at h
        cases h

/-- An operation that runs, of the kind whose actions come turn by turn. -/
abbrev State.CarriesOn (s : State) (i : Instr) : Prop := s.running = some i ∧ (i.request.isSome = true ∨ i = .update)

/-- Why an instruction faults: a breach by the host, or an index past a buffer (R190, log 8). -/
inductive FaultCase (i : Instr) (s : State) : Fault → Prop
  | reentry : ¬ s.Free → ¬ s.CarriesOn i → FaultCase i s .hostReentry
  | interleave : i = .update → s.T.phase ≠ .idle → FaultCase i s .hostInterleave
  | payloadIndex : s.T.phase = .scan → s.T.pos = .pl → s.T.idx.toNat ≥ Config.txBufCap → FaultCase i s .noSuchIndex
  | frameIndex (b : Byte) : s.P.readsPast b = true → FaultCase i s .noSuchIndex

theorem FaultCase.of_busyWithOther {i : Instr} {s : State} (h : s.busyWithOther i = true) : FaultCase i s .hostReentry := by
  unfold State.busyWithOther at h
  split at h
  · cases h
  · next j hr =>
    have hj : j ≠ i := of_decide_eq_true h
    exact .reentry (fun hfree => by simp [hfree.1] at hr) (fun hself => hj (Option.some.inj (hr.symm.trans hself.1)))

theorem FaultCase.of_whenFree {i : Instr} {s t : State} {f : Fault} (hi : i.request = none) (hne : i ≠ .update)
    (h : s.whenFree t = .fault f) : FaultCase i s f := by
  unfold State.whenFree at h
  split at h
  · next hr =>
    cases h
    exact .reentry (fun hfree => by simp [hfree.1] at hr) (fun hself => by simpa [hi, hne] using hself.2)
  · cases h

theorem FaultCase.of_exchangeOp {i : Instr} {op : Half} {args : List Byte} {tout : Millis} {ret : State → State} {s : State}
    {f : Fault} (h : exchangeOp i op args tout ret s = .fault f) : FaultCase i s f := by
  have unserved : s.T.phase ≠ .idle → s.running ≠ some i → FaultCase i s .hostReentry :=
    fun hp hr => .reentry (fun hfree => hp hfree.2) (fun hself => hr hself.1)
  unfold exchangeOp at h
  split at h
  · next hbusy => cases h; exact .of_busyWithOther hbusy
  · split at h
    · split at h <;> cases h
    · next hp =>
      split at h
      · cases hq : s.rxq with
        | nil => rw [drainAction_nil hq] at h; cases h
        | cons b bs => rw [drainAction_cons hq] at h; cases h
      · next hr => cases h; exact unserved (by simp [hp]) hr
    · next hp =>
      split at h
      · cases h
      · next hr => cases h; exact unserved (by simp [hp]) hr
    · next hp =>
      split at h
      · cases hpass : scanPass s with
        | next u => rw [hpass] at h; simp only [returning] at h; split at h <;> cases h
        | fault g =>
          rw [hpass] at h
          cases h
          obtain ⟨rfl, hpos, hidx⟩ := scanPass_fault hpass
          exact .payloadIndex hp hpos hidx
        | refused r => rw [hpass] at h; cases h
      · next hr => cases h; exact unserved (by simp [hp]) hr

/-- Why an instruction faults, in any state. -/
theorem exec_fault {i : Instr} {s : State} {f : Fault} (h : exec i s = .fault f) : FaultCase i s f := by
  cases hi : i.request with
  | some r =>
    obtain ⟨op, args, tout⟩ := r
    rw [exec_of_request hi] at h
    exact .of_exchangeOp h
  | none =>
    cases i <;> simp only [Instr.request, reduceCtorEq] at hi
    case update =>
      simp only [exec, execUpdate] at h
      split at h
      · next hp => cases h; exact .interleave rfl hp
      · split at h
        · next hbusy => cases h; exact .of_busyWithOther hbusy
        · obtain ⟨rfl, b, hpast⟩ := updateAction_fault h
          exact .frameIndex b hpast
    case reportFrame => cases h
    case distanceReport => cases h
    case configFrame => cases h
    case configAck =>
      simp only [exec, execConfigAck] at h
      split at h
      · split at h <;> cases h
      · cases h
    all_goals exact .of_whenFree rfl (by simp) h

/-- A request while an operation runs is a breach (R190). -/
theorem step_of_busyCall {s : State} {i : Instr} (hf : s.fault = none) (ha : s.nextAct = .call i) (hi : i.isHostOp = true)
    (hrun : s.running.isSome = true) : step s = .fault .hostInterleave ∨ step s = .fault .hostReentry := by
  by_cases hup : i = .update ∧ s.T.phase ≠ .idle
  · obtain ⟨rfl, hp⟩ := hup
    exact .inl ((interleavedUpdateFaults s hp).2 hf hrun ha)
  · have hother : i ≠ .update ∨ s.T.phase = .idle := by rwa [← not_ne_iff (a := s.T.phase), ← not_and_or]
    exact .inr (reentrantRequestFaults s i hf hrun ha hi hother)

/-- A step has a next state, is a breach at the host port, or is an action of the operation requested or in flight. -/
theorem step_next_or_breach_or_exec {s : State} (hf : s.fault = none) :
    (∃ t, step s = .next t) ∨
    (∃ i j, s.nextAct = .call i ∧ i.isHostOp = true ∧ s.running = some j ∧
      (step s = .fault .hostInterleave ∨ step s = .fault .hostReentry)) ∨
    (∃ i r, ((s.running = none ∧ i.isHostOp = true) ∨ s.running = some i) ∧
      step s = exec i { s.takeAct with frameOut := none, response := r }) := by
  obtain ⟨-, -, -, hacts⟩ := outsideActsChangeOnlyTheirPort s
  obtain ⟨hrx, hclk, htx, hidle, hframe⟩ := hacts hf
  cases ha : s.nextAct with
  | rx bytes => exact .inl ⟨_, hrx bytes ha⟩
  | clk t => exact .inl ⟨_, hclk t ha⟩
  | tx n => exact .inl ⟨_, htx n ha⟩
  | reset =>
    obtain ⟨t, ht, -⟩ := resetLeavesStreamsClockAndMarks s hf ha
    exact .inl ⟨t, ht⟩
  | block =>
    cases hrun : s.running with
    | none => exact .inl ⟨_, hidle ha hrun⟩
    | some i => exact .inr (.inr ⟨i, s.takeAct.response, .inr rfl, operationInFlightRunsInOneStep s i hf hrun ha⟩)
  | call i =>
    cases hi : i.isHostOp with
    | false => exact .inl ⟨_, hframe i ha hi⟩
    | true =>
      cases hrun : s.running with
      | none => exact .inr (.inr ⟨i, none, .inl ⟨rfl, hi⟩, requestedOperationRunsInOneStep s i hf ha hi hrun⟩)
      | some j => exact .inr (.inl ⟨i, j, rfl, hi, rfl, step_of_busyCall hf ha hi (by simp [hrun])⟩)

/-- Settles O47: no reason for a fault is an empty stream (R190). -/
theorem noStepReadsAnEmptyStream : Obligations.NoStepReadsAnEmptyStream := by
  intro s hf hfault
  rcases step_next_or_breach_or_exec hf with ⟨t, ht⟩ | ⟨_, _, -, -, -, hbreach⟩ | ⟨i, r, -, hexec⟩
  · rw [ht] at hfault; cases hfault
  · rw [hfault] at hbreach; simp at hbreach
  · rw [hexec] at hfault
    cases exec_fault hfault

/-- Within the invariant an operation requested on a free port, or in flight, has no reason to fault (R190). -/
theorem FaultCase.false_of_inv {i : Instr} {s : State} {f : Fault} (h : FaultCase i s f) (hs : s.Inv)
    (hrun : (s.running = none ∧ i.isHostOp = true) ∨ s.running = some i) : False := by
  obtain ⟨hP, hT, hport, -⟩ := hs
  cases h with
  | reentry hbusy hstray =>
    rcases hrun with ⟨hfree, -⟩ | hrun
    · exact hbusy ⟨hfree, hport.idle_of_free hfree⟩
    · by_cases hidle : s.T.phase = .idle
      · rcases hport with ⟨hfree, -⟩ | ⟨hup, -⟩ | ⟨-, hp⟩
        · exact hbusy ⟨hfree, hidle⟩
        · exact hstray ⟨hrun, .inr (Option.some.inj (hrun.symm.trans hup))⟩
        · exact hp hidle
      · exact hstray ⟨hrun, .inl (by simp [hport.request_of_running hrun hidle])⟩
  | interleave hi hp =>
    subst hi
    rcases hrun with ⟨hfree, -⟩ | hrun
    · exact hp (hport.idle_of_free hfree)
    · have hreq := hport.request_of_running hrun hp
      cases hreq
  | payloadIndex hp hpos hidx =>
    obtain ⟨-, hcap, hlt⟩ := hT.payload_bounds hp hpos
    omega
  | frameIndex b hpast => simp [hP.not_readsPast] at hpast

/-- Settles O48: within the invariant neither the requested operation nor the one in flight faults, so only the host port does (R190). -/
theorem onlyAHostBreachStopsTheMachine : Obligations.OnlyAHostBreachStopsTheMachine := by
  intro s hs hf
  rcases step_next_or_breach_or_exec hf with hnext | hbreach | ⟨i, r, hrun, hexec⟩
  · exact .inl hnext
  · exact .inr hbreach
  · rw [hexec]
    cases hout : exec i { s.takeAct with frameOut := none, response := r } with
    | next t => exact .inl ⟨t, rfl⟩
    | fault f =>
      obtain ⟨hP, hT, hport, -⟩ := hs
      obtain ⟨es, en, htake⟩ := takeAct_eq s
      have hinv : State.Inv { s.takeAct with frameOut := none, response := r } := by rw [htake]; exact ⟨hP, hT, hport, rfl⟩
      exact ((exec_fault hout).false_of_inv hinv (by simpa using hrun)).elim
    | refused _ => exact absurd hout exec_host_not_refused

end Sys2Proof.Machine
end

section
/-! PROOFS. The event trace is write-only (R185): on states that differ in the trace alone every action has outcomes that differ in the trace
alone. -/

namespace Sys2Proof.Machine

/-- The same state with another trace. -/
def State.withTrace (s : State) (tr : List Event) : State := { s with trace := tr }

@[simp] theorem State.withTrace_P (s : State) (tr : List Event) : (s.withTrace tr).P = s.P := rfl
@[simp] theorem State.withTrace_T (s : State) (tr : List Event) : (s.withTrace tr).T = s.T := rfl
@[simp] theorem State.withTrace_running (s : State) (tr : List Event) : (s.withTrace tr).running = s.running := rfl
@[simp] theorem State.withTrace_requestFault (s : State) (tr : List Event) (i : Instr) :
    (s.withTrace tr).requestFault i = s.requestFault i := rfl
@[simp] theorem State.withTrace_takeAct (s : State) (tr : List Event) : (s.withTrace tr).takeAct = s.takeAct.withTrace tr := by
  simp only [State.takeAct, State.withTrace]
  split <;> rfl

/-- The same outcome but for the trace. -/
abbrev SameButTrace (o o' : Host.Outcome State Fault Refusal) : Prop := withoutTrace o = withoutTrace o'

/-- A test that the trace has no part in. -/
theorem SameButTrace.ite {c : Prop} [Decidable c] {a b a' b' : Host.Outcome State Fault Refusal} (ha : SameButTrace a a')
    (hb : SameButTrace b b') : SameButTrace (if c then a else b) (if c then a' else b') := by
  split
  · exact ha
  · exact hb

/-- States that agree without their traces are one state with two traces. -/
theorem State.eq_withTrace {s t : State} (h : { s with trace := [] } = { t with trace := [] }) : s = t.withTrace s.trace := by
  cases s
  cases t
  simp only [State.mk.injEq] at h
  simp [State.withTrace, h]

theorem whenFree_sameButTrace {s t : State} (u v : State) (hrun : s.running = t.running)
    (h : SameButTrace (.next u) (.next v)) : SameButTrace (s.whenFree u) (t.whenFree v) := by
  simp only [State.whenFree, hrun]
  split
  · rfl
  · exact h

theorem drainAction_sameButTrace (s : State) (tr : List Event) : SameButTrace (drainAction (s.withTrace tr)) (drainAction s) := by
  cases hq : s.rxq with
  | nil => rw [drainAction_nil hq, drainAction_nil (s := s.withTrace tr) hq]; rfl
  | cons b bs => rw [drainAction_cons hq, drainAction_cons (s := s.withTrace tr) hq]; rfl

theorem execConfigAck_sameButTrace (echo : Half) (rest : List Byte) (s : State) (tr : List Event) :
    SameButTrace (execConfigAck echo rest (s.withTrace tr)) (execConfigAck echo rest s) := by
  simp only [execConfigAck, State.withTrace_T]
  cases s.T.phase
  case scan => exact .ite rfl rfl
  all_goals rfl

theorem scanHeader_sameButTrace (b : Byte) (k : Nat) (good : Pos) (s : State) (tr : List Event) :
    SameButTrace (.next (scanHeader b k good (s.withTrace tr))) (.next (scanHeader b k good s)) := by
  simp only [scanHeader, apply_ite Host.Outcome.next]
  exact .ite rfl rfl

theorem scanByte_sameButTrace (b : Byte) (s : State) (tr : List Event) :
    SameButTrace (scanByte b (s.withTrace tr)) (scanByte b s) := by
  simp only [scanByte, State.withTrace_T]
  cases s.T.pos
  case h0 | l0 => rfl
  case h1 | h2 | h3 => exact scanHeader_sameButTrace b _ _ s tr
  case l1 =>
    simp only [scanLenHigh, apply_ite Host.Outcome.next]
    exact .ite rfl rfl
  case pl =>
    exact .ite rfl (.ite (execConfigAck_sameButTrace _ _ (scanStore b s) tr) rfl)

theorem scanPass_sameButTrace (s : State) (tr : List Event) : SameButTrace (scanPass (s.withTrace tr)) (scanPass s) := by
  by_cases ht : (s.now - s.T.t0).toNat < s.T.tout.toNat
  · cases hq : s.rxq with
    | nil => rw [scanPass_nil ht hq, scanPass_nil (s := s.withTrace tr) ht hq]; rfl
    | cons b bs =>
      rw [scanPass_cons ht hq, scanPass_cons (s := s.withTrace tr) ht hq]
      exact scanByte_sameButTrace b { s with rxq := bs } tr
  · rw [scanPass_of_timedOut (s := s.withTrace tr) (Nat.le_of_not_lt ht), scanPass_of_timedOut (s := s) (Nat.le_of_not_lt ht)]
    rfl

/-- The return of an operation copies no trace. -/
theorem returning_sameButTrace (i : Instr) {o o' : Host.Outcome State Fault Refusal} (h : SameButTrace o o') :
    SameButTrace (returning (fun t => t.returned i) o) (returning (fun t => t.returned i) o') := by
  cases o <;> cases o' <;> simp only [SameButTrace, withoutTrace, reduceCtorEq] at h
  case next.next s t =>
    rw [State.eq_withTrace (Host.Outcome.next.inj h)]
    exact .ite rfl rfl
  case fault.fault => cases h; rfl
  case refused.refused => cases h; rfl

theorem exchangeOp_sameButTrace (i : Instr) (op : Half) (args : List Byte) (tout : Millis) (s : State) (tr : List Event) :
    SameButTrace (exchangeOp i op args tout (fun t => t.returned i) (s.withTrace tr))
      (exchangeOp i op args tout (fun t => t.returned i) s) := by
  simp only [exchangeOp, State.withTrace_T]
  refine .ite rfl ?_
  cases s.T.phase
  case idle => exact .ite rfl rfl
  case drain => exact .ite (drainAction_sameButTrace s tr) rfl
  case send => exact .ite rfl rfl
  case scan => exact .ite (returning_sameButTrace i (scanPass_sameButTrace s tr)) rfl

theorem consume_sameButTrace (f : Frame) (s : State) (tr : List Event) :
    SameButTrace (consume f (s.withTrace tr)) (consume f s) := by
  unfold consume
  cases f.kind
  case config => rfl
  case report =>
    simp only
    split
    · rfl
    · simp only [execReportFrame, State.decodeReport]
      rfl

theorem feedByte_sameButTrace (b : Byte) (s : State) (tr : List Event) :
    SameButTrace (feedByte b (s.withTrace tr)) (feedByte b s) := by
  simp only [feedByte, State.withTrace_P]
  refine .ite rfl ?_
  obtain ⟨p, ev, fo⟩ := parserStep s.P b
  cases fo with
  | none => cases ev <;> rfl
  | some f =>
    cases ev with
    | none => exact consume_sameButTrace f { s with P := p } tr
    | some e => exact consume_sameButTrace f ({ s with P := p }.raise e) (tr ++ [e])

theorem execUpdate_sameButTrace (s : State) (tr : List Event) :
    SameButTrace (exec .update (s.withTrace tr)) (exec .update s) := by
  refine .ite rfl (.ite rfl ?_)
  cases hq : s.rxq with
  | nil => rw [updateAction_nil hq, updateAction_nil (s := s.withTrace tr) hq]; rfl
  | cons b bs =>
    rw [updateAction_cons hq, updateAction_cons (s := s.withTrace tr) hq]
    exact feedByte_sameButTrace b { s with rxq := bs, running := some .update } tr

/-- No instruction reads the trace. -/
theorem exec_sameButTrace (i : Instr) (s : State) (tr : List Event) : SameButTrace (exec i (s.withTrace tr)) (exec i s) := by
  cases hi : i.request with
  | some r =>
    obtain ⟨op, args, tout⟩ := r
    rw [exec_of_request hi, exec_of_request hi]
    exact exchangeOp_sameButTrace i op args tout s tr
  | none =>
    cases i <;> simp only [Instr.request, reduceCtorEq] at hi
    case update => exact execUpdate_sameButTrace s tr
    case reportFrame payload =>
      simp only [exec, execReportFrame, State.decodeReport]
      split <;> rfl
    case distanceReport | configFrame => rfl
    case configAck echo rest => exact execConfigAck_sameButTrace echo rest s tr
    all_goals exact whenFree_sameButTrace _ _ rfl rfl

/-- No act of the schedule reads the trace. -/
theorem act_sameButTrace (e : Stimulus) (s : State) (tr : List Event) : SameButTrace (act e (s.withTrace tr)) (act e s) := by
  cases e with
  | rx | clk | tx | reset => rfl
  | block =>
    simp only [act, blockTurn, State.withTrace_running]
    split
    · exact exec_sameButTrace _ s tr
    · rfl
  | call i =>
    simp only [act, hostRequest, State.withTrace_requestFault]
    split
    · cases s.requestFault i with
      | some f => rfl
      | none => exact exec_sameButTrace i s.clearResponse tr
    · rfl

/-- Settles O59: the mark FAULT and the schedule are not the trace, and the act does not read it (R185). -/
theorem theTraceIsNeverRead : Obligations.TheTraceIsNeverRead := by
  intro s tr
  show withoutTrace (step (s.withTrace tr)) = withoutTrace (step s)
  cases hf : s.fault with
  | some r => rw [(marksAreSticky s).1 r hf |>.1, (marksAreSticky (s.withTrace tr)).1 r hf |>.1]
  | none =>
    rw [step_of_unfaulted hf, step_of_unfaulted (s := s.withTrace tr) hf, State.withTrace_takeAct]
    exact act_sameButTrace s.nextAct s.takeAct.clearFrameOut tr

end Sys2Proof.Machine
end

section
/-! PROOFS. The header and length states of the parser step (R102 to R114). -/

namespace Sys2Proof.Machine

/-- States WH2 to WH4, with the expected header byte named `x` (R105 to R108). -/
theorem stepHeader_of_hdrByte {p : Parser} {k : Nat} {x : Byte} (hx : hdrByte p.alph k = x) (b : Byte) (good : PState) :
    stepHeader p b k good =
      if b = x then ({ p with state := good }, none, none) else ({ p with state := .wh1 }, some (.pHdrMismatch k b), none) := by
  rw [stepHeader, hx]

/-- Settles O33: WH1 asks which alphabet the byte starts, WH2 to WH4 test the header byte of the active one (R102 to R108). -/
theorem headerStatesFollowTheAlphabet : Obligations.HeaderStatesFollowTheAlphabet := by
  intro p b lost go
  refine ⟨fun hs => ?wh1, fun hs => ?wh2, fun hs => ?wh3, fun hs => ?wh4⟩ <;> simp only [parserStep, hs]
  case wh1 =>
    simp only [stepStart, alphabetOf]
    by_cases hreport : b = 0xF4
    · simp only [if_pos hreport]
    · by_cases hconfig : b = 0xFD
      · simp only [if_neg hreport, if_pos hconfig]
      · simp only [if_neg hreport, if_neg hconfig]; rfl
  case wh2 => exact stepHeader_of_hdrByte (by cases p.alph <;> rfl) b .wh3
  case wh3 => exact stepHeader_of_hdrByte (by cases p.alph <;> rfl) b .wh4
  case wh4 => exact stepHeader_of_hdrByte (by cases p.alph <;> rfl) b .wl1

/-- Settles O34: the low byte is zero-extended, and the assembled length is tested against 250 and 0 (R110 to R114). -/
theorem lengthStatesBoundTheLength : Obligations.LengthStatesBoundTheLength := by
  intro p b
  refine ⟨fun hs => by simp only [parserStep, hs]; rfl, fun hs => ⟨by simp [le16_toNat], ?_⟩⟩
  have hzero : le16 (p.len.setWidth 8) b = 0 ↔ (le16 (p.len.setWidth 8) b).toNat = 0 := by
    rw [← BitVec.toNat_inj]
    rfl
  simp only [parserStep, hs, stepLenHigh, lowByte, hzero]

end Sys2Proof.Machine
end

section
/-! PROOFS. A whole frame through the parser (R126, R128): the header, the length, the payload and the first three footer bytes emit nothing,
and the fourth footer byte emits the frame. The buffer need not be within the parser's invariant: only what this frame stores is read. -/

namespace Sys2Proof.Machine

/-- The test that ends the payload is a test of the count while P.IDX is below 250, whatever the buffer holds (R115). -/
theorem parserStep_of_wp_lt {p : Parser} {b : Byte} (hs : p.state = .wp) (hidx : p.idx.toNat < Config.maxLen) :
    (p.idx + 1).toNat = p.idx.toNat + 1 ∧
    parserStep p b =
      ({ p with
          buf := p.buf.write p.idx.toNat b
          idx := p.idx + 1
          state := if p.idx.toNat + 1 = p.len.toNat then .wf1 else .wp }, none, none) := by
  simp only [Config.maxLen] at hidx
  have hone : (1 : Byte).toNat = 1 := rfl
  have hsucc : (p.idx + 1).toNat = p.idx.toNat + 1 := BitVec.toNat_add_of_lt (by omega)
  have hends : zext16 (p.idx + 1) = p.len ↔ p.idx.toNat + 1 = p.len.toNat := by rw [← BitVec.toNat_inj, zext16_toNat, hsucc]
  exact ⟨hsucc, by simp only [parserStep, hs, stepPayload, hends]⟩

/-- The four header bytes select their alphabet (R102 to R107). -/
theorem parserFeed_hdr {p : Parser} (hs : p.state = .wh1) (a : Alphabet) :
    parserFeed p (hdr a) = ({ p with alph := a, state := .wl1 }, []) := by
  cases p
  subst hs
  cases a <;> rfl

/-- The two length bytes of a frame of at most 250 payload bytes (R110 to R114). -/
theorem parserFeed_length {p : Parser} (hs : p.state = .wl1) {n : Half} (hn : n.toNat ≤ Config.maxLen) :
    parserFeed p (u16le n) = ({ p with len := n, idx := 0, state := if n.toNat = 0 then .wf1 else .wp }, []) := by
  have hlow : parserStep p (byteOf n 0) = ({ p with len := (byteOf n 0).setWidth 16, state := .wl2 }, none, none) :=
    (lengthStatesBoundTheLength p _).1 hs
  have hlen : le16 (BitVec.setWidth 8 ((byteOf n 0).setWidth 16)) (byteOf n 1) = n := by
    rw [BitVec.setWidth_setWidth_of_le _ (by decide), BitVec.setWidth_eq, le16_byteOf]
  have hhigh := ((lengthStatesBoundTheLength { p with len := (byteOf n 0).setWidth 16, state := .wl2 } (byteOf n 1)).2 rfl).2
  simp only [hlen, if_neg (Nat.not_lt.2 hn)] at hhigh
  simp only [u16le, parserFeed, hlow, hhigh]
  split <;> rfl

/-- The payload is stored from P.IDX on, by count alone, and emits nothing (R115, R116). -/
theorem parserFeed_payload {xs : List Byte} : ∀ {p : Parser}, p.state = (if p.idx.toNat = p.len.toNat then .wf1 else .wp) →
    p.idx.toNat + xs.length = p.len.toNat → p.len.toNat ≤ Config.maxLen → p.buf.wf = true →
    ∃ m i, parserFeed p xs = ({ p with buf := m, idx := i, state := .wf1 }, []) ∧
      m.range 0 p.len.toNat = p.buf.range 0 p.idx.toNat ++ xs := by
  induction xs with
  | nil =>
    intro p hs hlen hmax hwf
    have hlen : p.idx.toNat = p.len.toNat := hlen
    rw [if_pos hlen] at hs
    exact ⟨p.buf, p.idx, by rw [parserFeed, ← hs], by rw [hlen, List.append_nil]⟩
  | cons x xs ih =>
    intro p hs hlen hmax hwf
    simp only [List.length_cons] at hlen
    rw [if_neg (by omega)] at hs
    obtain ⟨hsucc, hstep⟩ := parserStep_of_wp_lt (b := x) hs (by omega)
    obtain ⟨m, i, hfeed, hrange⟩ := ih
      (p := { p with
        buf := p.buf.write p.idx.toNat x
        idx := p.idx + 1
        state := if p.idx.toNat + 1 = p.len.toNat then .wf1 else .wp })
      (by simp only [hsucc]) (by simp only [hsucc]; omega) hmax (Memory.wf_write _ x hwf)
    refine ⟨m, i, by simp only [parserFeed, hstep, hfeed]; rfl, ?_⟩
    rw [hrange]
    simp only [hsucc, Memory.range_write_next x hwf, List.append_assoc, List.singleton_append]

/-- The first three footer bytes (R117 to R119). -/
theorem parserFeed_footer {p : Parser} (hs : p.state = .wf1) : parserFeed p ((ftr p.alph).take 3) = ({ p with state := .wf4 }, []) := by
  obtain ⟨st, alph, len, idx, buf⟩ := p
  subst hs
  cases alph <;> rfl

/-- The bytes of a frame, its last one apart. -/
theorem encodeFrame_eq_append_last (a : Alphabet) (payload : List Byte) :
    encodeFrame a payload =
      (hdr a ++ u16le (BitVec.ofNat 16 payload.length) ++ payload ++ (ftr a).take 3) ++ [ftrByte a 3] := by
  have hftr : ftr a = (ftr a).take 3 ++ [ftrByte a 3] := by cases a <;> rfl
  rw [encodeFrame, List.append_assoc _ _ [ftrByte a 3], ← hftr]

/-- All but the last byte of a well-formed frame emit nothing and leave the frame in unit P, in WF4 (R126). -/
theorem parserFeed_all_but_last {p : Parser} (hs : p.state = .wh1) (hwf : p.buf.wf = true) {f : Frame} (hf : f.WellFormed) :
    ∃ q, parserFeed p (hdr f.kind ++ u16le (BitVec.ofNat 16 f.payload.length) ++ f.payload ++ (ftr f.kind).take 3) = (q, []) ∧
      q.state = .wf4 ∧ q.alph = f.kind ∧ q.frame = f := by
  obtain ⟨hlen, hmax⟩ := id hf
  obtain ⟨m, i, hpayload, hrange⟩ := parserFeed_payload (xs := f.payload)
    (p := { p with alph := f.kind, len := f.length, idx := 0, state := if f.length.toNat = 0 then .wf1 else .wp })
    (by simp [eq_comm]) (by simpa using hlen.symm) (by simpa [hlen] using hmax) hwf
  have hfooter := parserFeed_footer (p := { p with alph := f.kind, len := f.length, buf := m, idx := i, state := .wf1 }) rfl
  refine ⟨{ p with alph := f.kind, len := f.length, buf := m, idx := i, state := .wf4 }, ?_, rfl, rfl, ?_⟩
  · simp only [parserFeed_append, parserFeed_hdr hs, ofNat_length_of_wellFormed hf,
      parserFeed_length (p := { p with alph := f.kind, state := .wl1 }) rfl (hlen ▸ hmax), hpayload, hfooter, List.append_nil]
  · have hbuf : m.range 0 f.length.toNat = f.payload := hrange
    simp only [Parser.frame, hbuf]

/-- No string emits less than a first part of it. -/
theorem parserFeed_take_eq_nil {p : Parser} {bs : List Byte} (h : (parserFeed p bs).2 = []) (n : Nat) :
    (parserFeed p (bs.take n)).2 = [] := by
  rw [← List.take_append_drop n bs, parserFeed_append] at h
  exact (List.append_eq_nil_iff.1 h).1

/-- Settles O37: the frame is in unit P when its last byte comes, and nothing was emitted before (R120, R126, R128). -/
theorem wellFormedFrameIsEmittedAtItsLastByte : Obligations.WellFormedFrameIsEmittedAtItsLastByte := by
  intro p f hs hwf hf bytes
  obtain ⟨q, hfeed, hlast, halph, hframe⟩ := parserFeed_all_but_last hs hwf hf
  have hbytes : bytes = _ := encodeFrame_eq_append_last f.kind f.payload
  have hemit : parserFeed q [ftrByte f.kind 3] = ({ q with state := .wh1 }, [f]) := by
    simp [parserFeed, parserStep_of_last hlast (b := ftrByte f.kind 3) (by rw [halph]), hframe]
  refine ⟨?length, ?frames, ?state, fun n hn => ?early⟩
  case length => simp only [bytes, encodeFrame, List.length_append, length_hdr, length_u16le, length_ftr]; omega
  case frames => rw [hbytes, parserFeed_append, hfeed, hemit]; rfl
  case state => rw [hbytes, parserFeed_append, hfeed, hemit]
  case early =>
    rw [hbytes, List.length_append, List.length_singleton] at hn
    rw [hbytes, List.take_append_of_le_length (by omega)]
    exact parserFeed_take_eq_nil (by rw [hfeed]) n

end Sys2Proof.Machine
end

section
/-! PROOFS. The parser returns to WH1 (R127): a bound on the bytes still to come falls with every byte. -/

namespace Sys2Proof.Machine

/-- At most so many further bytes lead back to WH1 (R127). -/
def Parser.toWaitHeader (p : Parser) : Nat :=
  match p.state with
  | .wh1 => 0
  | .wh2 => 259
  | .wh3 => 258
  | .wh4 => 257
  | .wl1 => 256
  | .wl2 => 255
  | .wp => p.len.toNat - p.idx.toNat + 4
  | .wf1 => 4
  | .wf2 => 3
  | .wf3 => 2
  | .wf4 => 1

theorem Parser.toWaitHeader_le {p : Parser} (h : p.Inv) : p.toWaitHeader ≤ 259 := by
  obtain ⟨-, hwp, -⟩ := h
  cases hs : p.state <;> simp only [Parser.toWaitHeader, hs]
  case wp =>
    obtain ⟨-, hmax, -⟩ := hwp hs
    simp only [Config.maxLen] at hmax
    omega
  all_goals decide

/-- A header state that goes on or falls back to WH1. -/
theorem stepHeader_toWaitHeader (p : Parser) (b : Byte) (k : Nat) (good : PState) :
    (stepHeader p b k good).1.toWaitHeader ≤ ({ p with state := good } : Parser).toWaitHeader := by
  unfold stepHeader
  split
  · exact Nat.le_refl _
  · exact Nat.zero_le _

/-- A footer state that goes on or falls back to WH1. -/
theorem stepFooter_toWaitHeader (p : Parser) (b : Byte) (k : Nat) (good : PState) :
    (stepFooter p b k good).1.toWaitHeader ≤ ({ p with state := good } : Parser).toWaitHeader := by
  unfold stepFooter
  split
  · exact Nat.le_refl _
  · exact Nat.zero_le _

/-- Outside WH1 every byte comes nearer to WH1 (R127). -/
theorem parserStep_toWaitHeader_lt {p : Parser} (b : Byte) (h : p.Inv) (hne : p.state ≠ .wh1) :
    (parserStep p b).1.toWaitHeader < p.toWaitHeader := by
  cases hs : p.state
  case wh1 => exact absurd hs hne
  case wp =>
    rw [parserStep_of_wp h hs]
    have hsucc := h.idx_succ_toNat
    obtain ⟨-, hwp, -⟩ := h
    obtain ⟨-, -, hlt⟩ := hwp hs
    by_cases hend : p.idx.toNat + 1 = p.len.toNat
    · simp only [Parser.toWaitHeader, hs, if_pos hend]
      omega
    · simp only [Parser.toWaitHeader, hs, if_neg hend, hsucc]
      omega
  case wl2 =>
    have hhere : p.toWaitHeader = 255 := by simp only [Parser.toWaitHeader, hs]
    rw [((lengthStatesBoundTheLength p b).2 hs).2, hhere]
    split
    · exact Nat.zero_lt_succ _
    · next hmax =>
      split
      · simp [Parser.toWaitHeader]
      · simp only [Parser.toWaitHeader, BitVec.ofNat_eq_ofNat, BitVec.toNat_ofNat]
        omega
  all_goals simp only [parserStep, hs]
  case wl1 => simp [Parser.toWaitHeader, stepLenLow, hs]
  case wf4 => unfold stepEmit; split <;> simp [Parser.toWaitHeader, hs]
  case wh2 => exact (stepHeader_toWaitHeader p b 1 .wh3).trans_lt (by simp [Parser.toWaitHeader, hs])
  case wh3 => exact (stepHeader_toWaitHeader p b 2 .wh4).trans_lt (by simp [Parser.toWaitHeader, hs])
  case wh4 => exact (stepHeader_toWaitHeader p b 3 .wl1).trans_lt (by simp [Parser.toWaitHeader, hs])
  case wf1 => exact (stepFooter_toWaitHeader p b 0 .wf2).trans_lt (by simp [Parser.toWaitHeader, hs])
  case wf2 => exact (stepFooter_toWaitHeader p b 1 .wf3).trans_lt (by simp [Parser.toWaitHeader, hs])
  case wf3 => exact (stepFooter_toWaitHeader p b 2 .wf4).trans_lt (by simp [Parser.toWaitHeader, hs])

/-- On a long enough string the parser is in WH1 within the bound (R127). -/
theorem exists_take_wh1 {bs : List Byte} : ∀ {p : Parser} {k : Nat}, p.Inv → p.toWaitHeader ≤ k → k ≤ bs.length →
    ∃ n, n ≤ k ∧ (parserFeed p (bs.take n)).1.state = .wh1 := by
  induction bs with
  | nil =>
    intro p k hP hbound hk
    refine ⟨0, Nat.zero_le k, ?_⟩
    by_contra hne
    have := parserStep_toWaitHeader_lt 0 hP hne
    simp only [List.length_nil] at hk
    omega
  | cons b bs ih =>
    intro p k hP hbound hk
    by_cases hs : p.state = .wh1
    · exact ⟨0, Nat.zero_le k, hs⟩
    · have hlt := parserStep_toWaitHeader_lt b hP hs
      simp only [List.length_cons] at hk
      obtain ⟨n, hn, hw⟩ := ih (k := k - 1) (parserStep_inv b hP) (by omega) (by omega)
      exact ⟨n + 1, by omega, hw⟩

/-- Settles O38: the bound is at most 259 in every state, and at most 4 in a footer state (R127). -/
theorem parserReturnsToWaitHeader : Obligations.ParserReturnsToWaitHeader := by
  intro p bs hP
  refine ⟨fun hlen => exists_take_wh1 hP (Parser.toWaitHeader_le hP) hlen, fun hs hlen => exists_take_wh1 hP ?_ hlen⟩
  rcases hs with hs | hs | hs | hs <;> simp [Parser.toWaitHeader, hs]

end Sys2Proof.Machine
end

section
/-! PROOFS. What unit P held before it was last in WH1 never shows (R26, R27, R127): two parsers in the same state that agree on what
the frame in progress has written go on agreeing, and emit the same. -/

namespace Sys2Proof.Machine

/-- Two parsers agree on what the frame in progress has written so far: the alphabet after WH1, the length from WL2 on, the stored
payload from WP on (states in the order of their codes, R22). -/
structure Parser.Agree (p q : Parser) : Prop where
  state : p.state = q.state
  canonical : p.buf.wf = true ∧ q.buf.wf = true
  alph : p.state ≠ .wh1 → p.alph = q.alph
  len : 5 ≤ p.state.code → p.len = q.len
  stored : 6 ≤ p.state.code → p.idx = q.idx ∧ p.buf.range 0 p.idx.toNat = q.buf.range 0 p.idx.toNat
  room : p.state = .wp → p.idx.toNat < p.len.toNat ∧ p.len.toNat ≤ Config.maxLen
  full : 7 ≤ p.state.code → p.idx.toNat = p.len.toNat

/-- In WH1 nothing need agree. -/
theorem Parser.Agree.of_wh1 {p q : Parser} (hp : p.state = .wh1) (hq : q.state = .wh1) (hpb : p.buf.wf = true) (hqb : q.buf.wf = true) :
    p.Agree q :=
  ⟨hp.trans hq.symm, ⟨hpb, hqb⟩, by simp [hp], by simp [hp, PState.code], by simp [hp, PState.code], by simp [hp],
    by simp [hp, PState.code]⟩

/-- Back in WH1 parsers that agreed still agree. -/
theorem Parser.Agree.lost {p q : Parser} (h : p.Agree q) : Parser.Agree { p with state := .wh1 } { q with state := .wh1 } :=
  .of_wh1 rfl rfl h.canonical.1 h.canonical.2

/-- From one header state to another only the alphabet is carried on. -/
theorem Parser.Agree.of_header {p q : Parser} (hcan : p.buf.wf = true ∧ q.buf.wf = true) (hstate : p.state = q.state)
    (halph : p.alph = q.alph) (hcode : p.state.code ≤ 4) : p.Agree q :=
  ⟨hstate, hcan, fun _ => halph, fun _ => by omega, fun _ => by omega, fun hs => by simp [hs, PState.code] at hcode, fun _ => by omega⟩

/-- From one footer state to another everything is carried on. -/
theorem Parser.Agree.footer {p q : Parser} (h : p.Agree q) {good : PState} (hp : 7 ≤ p.state.code) (hgood : 7 ≤ good.code) :
    Parser.Agree { p with state := good } { q with state := good } :=
  ⟨rfl, h.canonical, fun _ => h.alph (by rintro hs; simp [hs, PState.code] at hp), fun _ => h.len (by omega), fun _ => h.stored (by omega),
    fun hs => by simp only at hs; simp [hs, PState.code] at hgood, fun _ => h.full hp⟩

theorem Parser.Agree.stepHeader {p q : Parser} (h : p.Agree q) (b : Byte) (k : Nat) {good : PState} (hp : p.state ≠ .wh1)
    (hgood : good.code ≤ 4) :
    (stepHeader p b k good).2 = (stepHeader q b k good).2 ∧ (stepHeader p b k good).1.Agree (stepHeader q b k good).1 := by
  have halph := h.alph hp
  unfold Machine.stepHeader
  by_cases hb : b = hdrByte p.alph k
  · rw [if_pos hb, if_pos (halph ▸ hb)]
    exact ⟨rfl, .of_header h.canonical rfl halph hgood⟩
  · rw [if_neg hb, if_neg (halph ▸ hb)]
    exact ⟨rfl, h.lost⟩

theorem Parser.Agree.stepFooter {p q : Parser} (h : p.Agree q) (b : Byte) (k : Nat) {good : PState} (hp : 7 ≤ p.state.code)
    (hgood : 7 ≤ good.code) :
    (stepFooter p b k good).2 = (stepFooter q b k good).2 ∧ (stepFooter p b k good).1.Agree (stepFooter q b k good).1 := by
  have halph := h.alph (by rintro hs; simp [hs, PState.code] at hp)
  unfold Machine.stepFooter
  by_cases hb : b = ftrByte p.alph k
  · rw [if_pos hb, if_pos (halph ▸ hb)]
    exact ⟨rfl, h.footer hp hgood⟩
  · rw [if_neg hb, if_neg (halph ▸ hb)]
    exact ⟨rfl, h.lost⟩

/-- The frames in unit P are the same once the payload is complete. -/
theorem Parser.Agree.frame {p q : Parser} (h : p.Agree q) (hs : p.state = .wf4) : p.frame = q.frame := by
  have hcode : p.state.code = 10 := by rw [hs]; rfl
  obtain ⟨hidx, hrange⟩ := h.stored (by omega)
  rw [h.full (by omega)] at hrange
  rw [Parser.frame, Parser.frame, ← h.alph (by simp [hs]), ← h.len (by omega), hrange]

/-- A payload byte is stored at the same place. -/
theorem Parser.Agree.payload {p q : Parser} (h : p.Agree q) (b : Byte) (hp : p.state = .wp) :
    (parserStep p b).2 = (parserStep q b).2 ∧ (parserStep p b).1.Agree (parserStep q b).1 := by
  have hcode : p.state.code = 6 := by rw [hp]; rfl
  obtain ⟨hidx, hrange⟩ := h.stored (by omega)
  obtain ⟨hlt, hmax⟩ := h.room hp
  have hlen := h.len (by omega)
  have halph := h.alph (by simp [hp])
  have hwrite : (p.buf.write p.idx.toNat b).range 0 (p.idx.toNat + 1) = (q.buf.write p.idx.toNat b).range 0 (p.idx.toNat + 1) := by
    rw [Memory.range_write_next b h.canonical.1, Memory.range_write_next b h.canonical.2, hrange]
  obtain ⟨hsucc, hstepp⟩ := parserStep_of_wp_lt (b := b) hp (by omega)
  obtain ⟨-, hstepq⟩ := parserStep_of_wp_lt (p := q) (b := b) (h.state ▸ hp) (by rw [← hidx]; omega)
  rw [hstepp, hstepq, ← hidx, ← hlen]
  refine ⟨rfl, rfl, ⟨Memory.wf_write _ b h.canonical.1, Memory.wf_write _ b h.canonical.2⟩, fun _ => halph, fun _ => rfl,
    fun _ => ⟨rfl, by simpa only [hsucc] using hwrite⟩, ?_, ?_⟩ <;> simp only [hsucc] <;> split
  · simp
  · exact fun _ => ⟨by omega, hmax⟩
  · next hend => exact fun _ => hend
  · simp [PState.code]

/-- The high length byte gives the same length, and the payload begins. -/
theorem Parser.Agree.lenHigh {p q : Parser} (h : p.Agree q) (b : Byte) (hp : p.state = .wl2) :
    (parserStep p b).2 = (parserStep q b).2 ∧ (parserStep p b).1.Agree (parserStep q b).1 := by
  have hlen := h.len (by rw [hp]; decide)
  have halph := h.alph (by simp [hp])
  rw [((lengthStatesBoundTheLength p b).2 hp).2, ((lengthStatesBoundTheLength q b).2 (h.state ▸ hp)).2, ← hlen]
  split
  · exact ⟨rfl, .of_wh1 rfl rfl h.canonical.1 h.canonical.2⟩
  · next hmax =>
    split
    · next hzero =>
      exact ⟨rfl, rfl, h.canonical, fun _ => halph, fun _ => rfl, fun _ => ⟨rfl, rfl⟩, by simp, fun _ => hzero.symm⟩
    · next hpos =>
      exact ⟨rfl, rfl, h.canonical, fun _ => halph, fun _ => rfl, fun _ => ⟨rfl, rfl⟩,
        fun _ => ⟨Nat.pos_of_ne_zero hpos, Nat.le_of_not_lt hmax⟩, by simp [PState.code]⟩

/-- Parsers that agree emit and raise the same on a byte, and agree after it. -/
theorem Parser.Agree.parserStep {p q : Parser} (h : p.Agree q) (b : Byte) :
    (parserStep p b).2 = (parserStep q b).2 ∧ (parserStep p b).1.Agree (parserStep q b).1 := by
  have hq := h.state
  cases hp : p.state
  case wp => exact h.payload b hp
  case wl2 => exact h.lenHigh b hp
  all_goals
    rw [hp] at hq
    simp only [Machine.parserStep, hp, ← hq]
  case wh1 =>
    unfold stepStart
    split
    · exact ⟨rfl, .of_header h.canonical rfl rfl (show PState.code .wh2 ≤ 4 by decide)⟩
    · exact ⟨rfl, h.lost⟩
  case wl1 =>
    have halph := h.alph (by simp [hp])
    exact ⟨rfl, rfl, h.canonical, fun _ => halph, fun _ => rfl, by simp [stepLenLow, PState.code], by simp [stepLenLow],
      by simp [stepLenLow, PState.code]⟩
  case wh2 | wh3 | wh4 => exact h.stepHeader b _ (by simp [hp]) (by decide)
  case wf1 | wf2 | wf3 => exact h.stepFooter b _ (by rw [hp]; decide) (by decide)
  case wf4 =>
    have halph := h.alph (by simp [hp])
    unfold stepEmit
    by_cases hb : b = ftrByte p.alph 3
    · rw [if_pos hb, if_pos (halph ▸ hb), h.frame hp]
      exact ⟨rfl, h.lost⟩
    · rw [if_neg hb, if_neg (halph ▸ hb)]
      exact ⟨rfl, h.lost⟩

/-- Parsers that agree emit the same frames on the same bytes, and agree after them. -/
theorem Parser.Agree.parserFeed {bs : List Byte} : ∀ {p q : Parser}, p.Agree q →
    (parserFeed p bs).2 = (parserFeed q bs).2 ∧ (parserFeed p bs).1.Agree (parserFeed q bs).1 := by
  induction bs with
  | nil => exact fun h => ⟨rfl, h⟩
  | cons b bs ih =>
    intro p q h
    obtain ⟨hout, hnext⟩ := h.parserStep b
    obtain ⟨hframes, hagree⟩ := ih hnext
    exact ⟨by simp only [Machine.parserFeed, hout, hframes], hagree⟩

/-- Settles O39: in WH1 the parsers agree on all that a frame in progress has written, which is nothing (R26, R27). -/
theorem staleParserRegistersNeverShow : Obligations.StaleParserRegistersNeverShow := by
  intro p q bs hp hq hpb hqb
  obtain ⟨hframes, hagree⟩ := (Parser.Agree.of_wh1 hp hq hpb hqb).parserFeed (bs := bs)
  exact ⟨hframes, hagree.state⟩

end Sys2Proof.Machine
end

section
/-! PROOFS. The decoder and the encoder (30_encoding.md): each frame format is read back from its encoding, and what a receiving port reads
is the encoding of the result. -/

namespace Sys2Proof

/-- The first header byte selects its alphabet (R84, R101). -/
theorem hdr_eq_cons (a : Alphabet) : ∃ b bs, hdr a = b :: bs ∧ alphabetOf b = some a := by
  cases a <;> exact ⟨_, _, rfl, rfl⟩

/-- A header is read as its alphabet; what follows is the body (R92). -/
theorem decodeFrame_hdr (a : Alphabet) (body : List Byte) : decodeFrame (hdr a ++ body) = decodeBody a body := by
  obtain ⟨b, bs, hhdr, ha⟩ := hdr_eq_cons a
  have hmatch := matchBytes_append .badHeader 0 (hdr a) body
  simp only [hhdr, List.cons_append] at hmatch ⊢
  simp only [decodeFrame, ha, hhdr, hmatch]

/-- A body of at most 250 payload bytes is read back (R70, R94). -/
theorem decodeBody_encode (a : Alphabet) (payload rest : List Byte) (h : payload.length ≤ Config.maxLen) :
    decodeBody a (u16le (BitVec.ofNat 16 payload.length) ++ payload ++ ftr a ++ rest) =
      .ok (⟨a, BitVec.ofNat 16 payload.length, payload⟩, rest) := by
  have hlen : (BitVec.ofNat 16 payload.length).toNat = payload.length := by
    simp only [Config.maxLen] at h
    rw [BitVec.toNat_ofNat]
    omega
  simp only [decodeBody, List.append_assoc, takeLength_u16le, hlen, if_neg (Nat.not_lt.2 h), takePayload_append, matchBytes_append]

/-- A frame of at most 250 payload bytes is read back from its encoding (R70, R92). -/
theorem decodeFrame_encodeFrame (a : Alphabet) (payload rest : List Byte) (h : payload.length ≤ Config.maxLen) :
    decodeFrame (encodeFrame a payload ++ rest) = .ok (⟨a, BitVec.ofNat 16 payload.length, payload⟩, rest) := by
  rw [← decodeBody_encode a payload rest h, ← decodeFrame_hdr, encodeFrame]
  simp only [List.append_assoc]

/-- A request is a config frame whose payload is its opcode and arguments (R72, R134). -/
theorem encodeRequest_eq_encodeFrame (op : Half) (args : List Byte) : encodeRequest op args = encodeFrame .config (u16le op ++ args) := by
  simp only [encodeRequest, encodeFrame, List.length_append, length_u16le, List.append_assoc]

/-- A request of at most 248 argument bytes is read back from its encoding (R72, R79). -/
theorem decodeRequest_encodeRequest (op : Half) (args rest : List Byte) (h : args.length ≤ Config.txArgMax) :
    decodeRequest (encodeRequest op args ++ rest) = .ok (Instr.ofRequest op args, rest) := by
  have hlen : (u16le op ++ args).length ≤ Config.maxLen := by
    simp only [List.length_append, length_u16le, Config.maxLen]
    simp only [Config.txArgMax] at h
    omega
  rw [encodeRequest_eq_encodeFrame, decodeRequest, decodeFrame_encodeFrame _ _ _ hlen]
  simp only [u16le, List.cons_append, List.nil_append, le16_byteOf]

/-- An acknowledgement of 2 to 250 payload bytes is read back from its encoding (R76, R81). -/
theorem decodeAck_encodeAck (echo : Half) (more rest : List Byte) (h : 2 + more.length ≤ Config.txBufCap) :
    decodeAck (encodeAck echo more ++ rest) = .ok (.configAck echo more, rest) := by
  have hlen : (BitVec.ofNat 16 (2 + more.length)).toNat = (u16le echo ++ more).length := by
    simp only [Config.txBufCap] at h
    rw [BitVec.toNat_ofNat, List.length_append, length_u16le]
    omega
  have hcap : ¬ (u16le echo ++ more).length > Config.txBufCap := by
    rw [List.length_append, length_u16le]
    omega
  have hpayload := takePayload_append (u16le echo ++ more) rest
  rw [List.append_assoc] at hpayload
  simp only [decodeAck, encodeAck, List.append_assoc, matchBytes_append, takeLength_u16le, hlen, if_neg hcap, hpayload]
  simp only [u16le, List.cons_append, List.nil_append, le16_byteOf]

/-- A report frame of any length but 4 is a REPORT_FRAME (R92). -/
theorem ofFrame_report {n : Half} {payload : List Byte} (h : payload.length ≠ 4) :
    Instr.ofFrame ⟨.report, n, payload⟩ = .reportFrame payload := by
  unfold Instr.ofFrame
  simp only
  split
  · exact absurd rfl h
  · rfl

/-- A received frame of at most 250 payload bytes is decoded as its row (R92). -/
theorem decode_background_encodeFrame (a : Alphabet) (payload rest : List Byte) (h : payload.length ≤ Config.maxLen) :
    decode .background (encodeFrame a payload ++ rest) =
      .ok (Instr.ofFrame ⟨a, BitVec.ofNat 16 payload.length, payload⟩, rest) := by
  simp only [decode, decodeFrame_encodeFrame a payload rest h]

/-- A setter's request is read as the setter of its 16-bit argument (R79). -/
theorem ofRequest_setPeriod (p : Half) : Instr.ofRequest opSetPeriod (u16le p) = .setPeriod p Config.defaultTimeout :=
  congrArg (Instr.setPeriod · Config.defaultTimeout) (le16_byteOf p)
theorem ofRequest_setMinDist (mm : Half) : Instr.ofRequest opSetMinDist (u16le mm) = .setMinDist mm Config.defaultTimeout :=
  congrArg (Instr.setMinDist · Config.defaultTimeout) (le16_byteOf mm)
theorem ofRequest_setMaxDist (mm : Half) : Instr.ofRequest opSetMaxDist (u16le mm) = .setMaxDist mm Config.defaultTimeout :=
  congrArg (Instr.setMaxDist · Config.defaultTimeout) (le16_byteOf mm)

/-- Any other request is read as an EXCHANGE (R79, R91). -/
theorem ofRequest_exchange {op : Half} {args : List Byte} (henter : op = opEnterCfg → args ≠ [0x01, 0x00])
    (hnone : op = opExitCfg ∨ op = opFactoryReset → args ≠ [])
    (htwo : op = opSetPeriod ∨ op = opSetMinDist ∨ op = opSetMaxDist → args.length ≠ 2) :
    Instr.ofRequest op args = .exchange op args Config.defaultTimeout := by
  unfold Instr.ofRequest
  split
  · have hexit : op ≠ opExitCfg := fun h => hnone (.inl h) rfl
    have hreset : op ≠ opFactoryReset := fun h => hnone (.inr h) rfl
    rw [if_neg hexit, if_neg hreset]
  · next a0 a1 =>
    have hon : ¬ (op = opEnterCfg ∧ a0 = 0x01 ∧ a1 = 0x00) := by
      rintro ⟨h, rfl, rfl⟩
      exact henter h rfl
    have hperiod : op ≠ opSetPeriod := fun h => htwo (.inl h) rfl
    have hmin : op ≠ opSetMinDist := fun h => htwo (.inr (.inl h)) rfl
    have hmax : op ≠ opSetMaxDist := fun h => htwo (.inr (.inr h)) rfl
    rw [if_neg hon, if_neg hperiod, if_neg hmin, if_neg hmax]
  · rfl

/-- Decoding an encoded well-formed instruction at its port gives what the wire keeps of it (R70 to R79). -/
theorem decode_encode {i : Instr} {port : Port} {rest : List Byte} (hi : i.wellFormed = true) (hport : i.port = some port) :
    decode port (encode i ++ rest) = .ok (i.onWire, rest) := by
  cases i <;> simp only [Instr.port, Option.some.injEq, reduceCtorEq] at hport <;> subst hport
  case enterCfg => exact decodeRequest_encodeRequest opEnterCfg [0x01, 0x00] rest (by decide)
  case exitCfg => exact decodeRequest_encodeRequest opExitCfg [] rest (by decide)
  case factoryReset => exact decodeRequest_encodeRequest opFactoryReset [] rest (by decide)
  case setPeriod p _ =>
    rw [Instr.onWire, ← ofRequest_setPeriod]
    exact decodeRequest_encodeRequest opSetPeriod (u16le (clampPeriod p)) rest (show 2 ≤ Config.txArgMax by decide)
  case setMinDist mm _ =>
    rw [Instr.onWire, ← ofRequest_setMinDist]
    exact decodeRequest_encodeRequest opSetMinDist (u16le mm) rest (show 2 ≤ Config.txArgMax by decide)
  case setMaxDist mm _ =>
    rw [Instr.onWire, ← ofRequest_setMaxDist]
    exact decodeRequest_encodeRequest opSetMaxDist (u16le mm) rest (show 2 ≤ Config.txArgMax by decide)
  case exchange op args _ => exact decodeRequest_encodeRequest op args rest (of_decide_eq_true hi)
  case reportFrame payload =>
    obtain ⟨hmax, hne⟩ := of_decide_eq_true hi
    rw [encode, decode_background_encodeFrame _ _ _ hmax, ofFrame_report hne]
    rfl
  case distanceReport d =>
    rw [encode, decode_background_encodeFrame .report (u32le d) rest (show 4 ≤ Config.maxLen by decide)]
    simp [Instr.ofFrame, u32le, Instr.onWire]
  case configFrame payload => exact decode_background_encodeFrame .config payload rest (of_decide_eq_true hi)
  case configAck echo more => exact decodeAck_encodeAck echo more rest (of_decide_eq_true hi)

/-- Settles O40: a request is read back as its opcode and arguments, which name an operation or are an EXCHANGE (R70 to R79). -/
theorem decodeOfEncodeIsTheInstruction : Obligations.DecodeOfEncodeIsTheInstruction := by
  refine ⟨fun i port rest hi hport => decode_encode hi hport, fun op args tout rest hlen henter hnone htwo => ?_, fun a0 a1 tout rest => ?_⟩
  · show decodeRequest (encodeRequest op args ++ rest) = _
    rw [decodeRequest_encodeRequest op args rest hlen, ofRequest_exchange henter hnone htwo]
  · exact decodeRequest_encodeRequest opSetPeriod [a0, a1] rest (show 2 ≤ Config.txArgMax by decide)

theorem eq_of_takeLength {bs rest : List Byte} {n : Half} (h : takeLength bs = .ok (n, rest)) : bs = u16le n ++ rest := by
  unfold takeLength at h
  split at h
  · cases h; simp
  · cases h

theorem eq_of_takePayload {n : Nat} {bs payload rest : List Byte} (h : takePayload n bs = .ok (payload, rest)) :
    payload.length = n ∧ bs = payload ++ rest := by
  unfold takePayload at h
  split at h
  · cases h
  · next hlen =>
    cases h
    exact ⟨List.length_take_of_le (Nat.le_of_not_lt hlen), (List.take_append_drop n bs).symm⟩

/-- A body is read from the encoding of a well-formed frame without its header (R70, R94). -/
theorem eq_of_decodeBody {a : Alphabet} {bs rest : List Byte} {f : Frame} (h : decodeBody a bs = .ok (f, rest)) :
    f.kind = a ∧ f.WellFormed ∧ bs = u16le f.length ++ f.payload ++ ftr a ++ rest := by
  unfold decodeBody at h
  split at h
  · cases h
  · next n bs1 hn =>
    split at h
    · cases h
    · next hmax =>
      split at h
      · cases h
      · next payload bs2 hpayload =>
        split at h
        · cases h
        · next bs3 hftr =>
          cases h
          obtain ⟨hlen, rfl⟩ := eq_of_takePayload hpayload
          rw [eq_of_takeLength hn, eq_append_of_matchBytes hftr]
          exact ⟨rfl, ⟨hlen.symm, hlen.trans_le (Nat.le_of_not_lt hmax)⟩, by simp only [List.append_assoc]⟩

/-- A received frame is read from the encoding of its kind and payload, and is well formed (R92). -/
theorem eq_of_decodeFrame {bs rest : List Byte} {f : Frame} (h : decodeFrame bs = .ok (f, rest)) :
    f.WellFormed ∧ bs = encodeFrame f.kind f.payload ++ rest := by
  unfold decodeFrame at h
  split at h
  · cases h
  · split at h
    · cases h
    · split at h
      · cases h
      · next a _ body hhdr =>
        obtain ⟨rfl, hwf, hbody⟩ := eq_of_decodeBody h
        rw [eq_append_of_matchBytes hhdr, hbody, encodeFrame, Machine.ofNat_length_of_wellFormed hwf]
        exact ⟨hwf, by simp only [List.append_assoc]⟩

/-- The row of a well-formed frame is well formed and has the frame's encoding (R70, R92). -/
theorem encode_ofFrame {f : Frame} (h : f.WellFormed) :
    (Instr.ofFrame f).wellFormed = true ∧ encode (Instr.ofFrame f) = encodeFrame f.kind f.payload := by
  obtain ⟨kind, n, payload⟩ := f
  obtain ⟨-, hmax⟩ := h
  cases kind with
  | config => exact ⟨decide_eq_true hmax, rfl⟩
  | report =>
    by_cases hfour : payload.length = 4
    · obtain ⟨b0, b1, b2, b3, rfl⟩ := List.length_eq_four.1 hfour
      exact ⟨rfl, by simp [Instr.ofFrame, encode]⟩
    · rw [ofFrame_report hfour]
      exact ⟨decide_eq_true ⟨hmax, hfour⟩, rfl⟩

/-- An acknowledgement is read from its encoding, and is well formed (R76, R142). -/
theorem eq_of_decodeAck {bs rest : List Byte} {i : Instr} (h : decodeAck bs = .ok (i, rest)) :
    i.wellFormed = true ∧ bs = encode i ++ rest := by
  unfold decodeAck at h
  split at h
  · cases h
  · next bs1 hhdr =>
    split at h
    · cases h
    · next n bs2 hn =>
      split at h
      · cases h
      · next hcap =>
        split at h
        · cases h
        · next lo hi more rest hpayload =>
          cases h
          obtain ⟨hlen, rfl⟩ := eq_of_takePayload hpayload
          have hn' : BitVec.ofNat 16 (2 + more.length) = n := by
            rw [← BitVec.toNat_inj, BitVec.toNat_ofNat, ← hlen]
            simp only [List.length_cons] at hlen ⊢
            omega
          simp only [List.length_cons] at hlen
          refine ⟨decide_eq_true (by omega), ?_⟩
          rw [eq_append_of_matchBytes hhdr, eq_of_takeLength hn]
          simp [encode, encodeAck, hn']
        · cases h

/-- Settles O41: each receiving port reads the encoding of a well-formed row (R76, R92). -/
theorem receivedBytesAreTheEncodingOfWhatTheyDecodeTo : Obligations.ReceivedBytesAreTheEncodingOfWhatTheyDecodeTo := by
  intro port bs rest i hport h
  cases port with
  | sent => exact absurd rfl hport
  | scan => exact eq_of_decodeAck h
  | background =>
    simp only [decode] at h
    split at h
    · cases h
    · next f _ hframe =>
      cases h
      obtain ⟨hwf, hbytes⟩ := eq_of_decodeFrame hframe
      obtain ⟨hi, hencode⟩ := encode_ofFrame hwf
      exact ⟨hi, by rw [hbytes, hencode]⟩

/-- Settles O44: the words are fixed, so each decodes by evaluation (R71 to R76, R92). -/
theorem wordsOfTheSpecDecode : Obligations.WordsOfTheSpecDecode :=
  ⟨rfl, rfl, rfl, rfl, rfl, rfl⟩

end Sys2Proof
end

section
/-! PROOFS. Single steps of a scheduled run: the acts of the agenda, one at a time, with the whole next state (log 2). -/

namespace Sys2Proof.Machine

/-- An act is taken off the agenda, which leaves `es`, and FRAME_OUT is cleared (log 2 and 13). -/
def State.turn (s : State) (es : List Stimulus) : State := { s with agenda := es, frameOut := none }

/-- A turn of the block in the agenda. -/
theorem step_block {s : State} {i : Instr} {es : List Stimulus} (hf : s.fault = none) (hrun : s.running = some i)
    (ha : s.agenda = .block :: es) : step s = exec i (s.turn es) := by
  rw [operationInFlightRunsInOneStep s i hf hrun (State.nextAct_agenda ha), State.takeAct_of_agenda ha]
  rfl

/-- A request in the agenda, on a free host port. -/
theorem step_call {s : State} {i : Instr} {es : List Stimulus} (hf : s.fault = none) (hrun : s.running = none)
    (hi : i.isHostOp = true) (ha : s.agenda = .call i :: es) :
    step s = exec i (s.turn es).clearResponse := by
  rw [requestedOperationRunsInOneStep s i hf (State.nextAct_agenda ha) hi hrun, State.takeAct_of_agenda ha]
  rfl

/-- An append in the agenda. -/
theorem step_rx {s : State} {bytes : List Byte} {es : List Stimulus} (hf : s.fault = none) (ha : s.agenda = .rx bytes :: es) :
    step s = .next ((s.turn es).appendRx bytes) := by
  obtain ⟨-, -, -, hacts⟩ := outsideActsChangeOnlyTheirPort s
  rw [(hacts hf).1 bytes (State.nextAct_agenda ha), State.takeAct_of_agenda ha]
  rfl

/-- A clock act in the agenda. -/
theorem step_clk {s : State} {c : Millis} {es : List Stimulus} (hf : s.fault = none) (ha : s.agenda = .clk c :: es) :
    step s = .next ((s.turn es).setClock c) := by
  obtain ⟨-, -, -, hacts⟩ := outsideActsChangeOnlyTheirPort s
  rw [(hacts hf).2.1 c (State.nextAct_agenda ha), State.takeAct_of_agenda ha]
  rfl

/-- Every state of a run from an invariant state meets the invariant. -/
theorem run_inv {k : Nat} : ∀ {s t : State}, s.Inv → core.run k s = .next t → t.Inv := by
  induction k with
  | zero => intro s t hs h; cases h; exact hs
  | succ k ih =>
    intro s t hs h
    simp only [Host.Core.run] at h
    cases hstep : core.step s with
    | next u => rw [hstep] at h; exact ih (stepKeepsTheInvariant s u hs hstep) h
    | fault f => rw [hstep] at h; cases h
    | refused r => rw [hstep] at h; cases h

end Sys2Proof.Machine
end

section
/-! PROOFS. UPDATE over a whole backlog (R165, R166): one turn for each byte, and one for the return. -/

namespace Sys2Proof.Machine

/-- UPDATE in flight after it has taken the byte `b` and left `bs`: unit P after the parser step, unit C after the frame it emitted, if any
(R165, R166). -/
def State.tookByte (s : State) (b : Byte) (bs : List Byte) (fo : Option Frame) (tr : List Event) : State :=
  { s with
    rxq := bs, running := some .update, P := (parserStep s.P b).1
    C := (parserStep s.P b).2.2.toList.foldl (fun c f => consumerAfter c s.now f) s.C, frameOut := fo, trace := tr }

/-- A pass of UPDATE on a waiting byte (R165, R166). -/
theorem exec_update_cons {s : State} {b : Byte} {bs : List Byte} (hp : s.T.phase = .idle)
    (hrun : s.running = none ∨ s.running = some .update) (hP : s.P.Inv) (hq : s.rxq = b :: bs) :
    ∃ fo tr, exec .update s = .next (s.tookByte b bs fo tr) := by
  obtain ⟨tr, -, hfeed⟩ := feedByte_next b { s with rxq := bs, running := some .update } hP
  refine ⟨(parserStep s.P b).2.2.or s.frameOut, s.trace ++ tr, ?_⟩
  rw [exec_update hp hrun, updateAction_cons hq, hfeed, State.tookByte]
  cases (parserStep s.P b).2.2 <;> rfl

/-- What UPDATE has made of `bytes` when it returns (R165, R166, R183). -/
structure Updated (s : State) (bytes : List Byte) (t : State) : Prop where
  rxq : t.rxq = []
  running : t.running = none
  response : t.response = some .unit
  P : t.P = (parserFeed s.P bytes).1
  C : t.C = (parserFeed s.P bytes).2.foldl (fun c f => consumerAfter c s.now f) s.C
  T : t.T = s.T
  txq : t.txq = s.txq

/-- UPDATE on an empty RXQ returns with nothing changed (R165). -/
theorem exec_update_nil {s : State} (hp : s.T.phase = .idle) (hrun : s.running = none ∨ s.running = some .update) (hq : s.rxq = []) :
    exec .update s = .next (s.respond .unit) ∧ Updated s [] (s.respond .unit) :=
  ⟨by rw [exec_update hp hrun, updateAction_nil hq], ⟨hq, rfl, rfl, rfl, rfl, rfl, rfl⟩⟩

/-- A byte fed, then the others. -/
theorem Updated.cons {s t : State} {b : Byte} {bs : List Byte} {fo : Option Frame} {tr : List Event}
    (h : Updated (s.tookByte b bs fo tr) bs t) : Updated s (b :: bs) t :=
  ⟨h.rxq, h.running, h.response, h.P, by rw [h.C, parserFeed, List.foldl_append]; rfl, h.T, h.txq⟩

/-- The schedule and FRAME_OUT before it have no part in it. -/
theorem Updated.of_turn {s t : State} {bytes : List Byte} {es : List Stimulus} (h : Updated (s.turn es) bytes t) : Updated s bytes t :=
  ⟨h.rxq, h.running, h.response, h.P, h.C, h.T, h.txq⟩

/-- Nor has the response port. -/
theorem Updated.of_clearResponse {s t : State} {bytes : List Byte} (h : Updated s.clearResponse bytes t) : Updated s bytes t :=
  ⟨h.rxq, h.running, h.response, h.P, h.C, h.T, h.txq⟩

/-- UPDATE in flight takes the backlog in as many turns as it has bytes, and returns in one more (R165). -/
theorem run_update {bytes : List Byte} : ∀ {s : State} {es : List Stimulus}, s.fault = none → s.running = some .update →
    s.T.phase = .idle → s.P.Inv → s.rxq = bytes → s.agenda = List.replicate (bytes.length + 1) .block ++ es →
    ∃ t, core.run (bytes.length + 1) s = .next t ∧ Updated s bytes t := by
  induction bytes with
  | nil =>
    intro s es hf hrun hp hP hq ha
    obtain ⟨hexec, hdone⟩ := exec_update_nil (s := s.turn es) hp (.inr hrun) hq
    exact ⟨_, run_succ 0 ((step_block hf hrun ha).trans hexec), hdone.of_turn⟩
  | cons b bs ih =>
    intro s es hf hrun hp hP hq ha
    obtain ⟨fo, tr, hexec⟩ := exec_update_cons (s := s.turn (List.replicate (bs.length + 1) .block ++ es)) hp (.inr hrun) hP hq
    obtain ⟨t, ht, hdone⟩ := ih (s := (s.turn _).tookByte b bs fo tr) (es := es) hf rfl hp (parserStep_inv b hP) rfl rfl
    exact ⟨t, (run_succ _ ((step_block hf hrun ha).trans hexec)).trans ht, hdone.cons.of_turn⟩

/-- Settles O31: the request is the first pass, and each later turn is one more (R165, R166). -/
theorem updateTakesTheWholeBacklog : Obligations.UpdateTakesTheWholeBacklog := by
  intro s hs hf hfree ha
  obtain ⟨hP, -, -, -⟩ := hs
  obtain ⟨hrun, hp⟩ := hfree
  have hrequest := step_call (i := .update) hf hrun rfl ha
  suffices h : ∃ t, core.run (s.rxq.length + 1) s = .next t ∧ Updated s s.rxq t by
    obtain ⟨t, ht, hdone⟩ := h
    exact ⟨t, ht, hdone.rxq, ⟨hdone.running, by rw [hdone.T]; exact hp⟩, hdone.response, hdone.P, hdone.C, hdone.T, hdone.txq⟩
  cases hq : s.rxq with
  | nil =>
    rw [hq] at hrequest
    obtain ⟨hexec, hdone⟩ := exec_update_nil (s := (s.turn []).clearResponse) hp (.inl hrun) hq
    exact ⟨_, run_succ 0 (hrequest.trans hexec), hdone.of_clearResponse.of_turn⟩
  | cons b bs =>
    rw [hq] at hrequest
    obtain ⟨fo, tr, hexec⟩ := exec_update_cons (s := (s.turn (List.replicate (bs.length + 1) .block)).clearResponse) hp (.inl hrun) hP hq
    obtain ⟨t, ht, hdone⟩ := run_update (s := (s.turn (List.replicate (bs.length + 1) .block)).clearResponse.tookByte b bs fo tr)
      (es := []) hf rfl hp (parserStep_inv b hP) rfl (List.append_nil _).symm
    exact ⟨t, (run_succ _ (hrequest.trans hexec)).trans ht, hdone.cons.of_clearResponse.of_turn⟩

end Sys2Proof.Machine
end

section
/-! PROOFS. The beginning of an exchange (R131 to R137): the request, the drain of the backlog and the send, each with the whole state
after it. -/

namespace Sys2Proof.Machine

/-- The request of an operation that exchanges is REQ of its opcode and arguments (R134, R150 to R157). -/
theorem encode_of_request {i : Instr} {op : Half} {args : List Byte} {tout : Millis} (hi : i.request = some (op, args, tout)) :
    encode i = encodeRequest op args := by
  cases i <;> simp only [Instr.request, Option.some.injEq, Prod.mk.injEq, reduceCtorEq] at hi
  all_goals
    obtain ⟨rfl, rfl, -⟩ := hi
    rfl

/-- The drain of a backlog takes a check for each byte and one more (R133). -/
theorem run_drain {i : Instr} {bytes : List Byte} (hi : i.request.isSome = true) : ∀ {s : State} {es : List Stimulus}, s.fault = none →
    s.InPhase i .drain → s.rxq = bytes → s.agenda = List.replicate (bytes.length + 1) .block ++ es →
    core.run (bytes.length + 1) s =
      .next { s.turn es with rxq := [], T := { s.T with phase := .send } } := by
  induction bytes with
  | nil =>
    intro s es hf hp hq ha
    have hcheck := (drainDiscardsUntilEmpty i (s.turn es) hi hp).2 hq
    exact (run_succ 0 ((step_block hf hp.1 ha).trans hcheck)).trans (by rw [run_zero, ← hq]; rfl)
  | cons b bs ih =>
    intro s es hf hp hq ha
    have hcheck := (drainDiscardsUntilEmpty i (s.turn (List.replicate (bs.length + 1) .block ++ es)) hi hp).1 b bs hq
    exact (run_succ _ ((step_block hf hp.1 ha).trans hcheck)).trans
      (ih (s := { s.turn _ with rxq := bs }) hf hp rfl rfl)

/-- The state in which an exchange has been requested, its backlog drained, its request sent and its scan started (R132 to R137). -/
def State.sent (s : State) (i : Instr) (op : Half) (args : List Byte) (tout : Millis) (es : List Stimulus) : State :=
  { s with
    T := { s.T with op := op, args := args, tout := tout, t0 := s.now, pos := .h0, phase := .scan }
    rxq := [], txq := s.txq ++ encode i, running := some i, response := none, agenda := es, frameOut := none }

/-- An admitted exchange begins its scan after its request, a check for each byte of the backlog and one more, and the send
(R131 to R137). -/
theorem run_sent {s : State} {i : Instr} {op : Half} {args : List Byte} {tout : Millis} {es : List Stimulus}
    (hi : i.request = some (op, args, tout)) (hf : s.fault = none) (hfree : s.Free) (hargs : args.length ≤ Config.txArgMax)
    (ha : s.agenda = .call i :: (List.replicate (s.rxq.length + 2) .block ++ es)) :
    core.run (s.rxq.length + 3) s = .next (s.sent i op args tout es) := by
  have hsome : i.request.isSome = true := by simp [hi]
  have hstart := admittedExchangeStarts i op args tout (s.turn (List.replicate (s.rxq.length + 2) .block ++ es)).clearResponse hi hfree
    hargs
  have hrequest := run_succ (s.rxq.length + 2) ((step_call hf hfree.1 (Instr.isHostOp_of_request hsome) ha).trans hstart)
  have hdrain := run_drain (es := .block :: es) hsome
    (s := { s.turn (List.replicate (s.rxq.length + 2) .block ++ es) with
      response := none, T := { s.T with op := op, args := args, tout := tout, phase := .drain }, running := some i })
    hf ⟨rfl, rfl⟩ rfl (by simp [List.replicate_succ', State.turn])
  have hsend := run_succ 0 ((step_block (es := es)
    (s := { s.turn (.block :: es) with
      rxq := [], response := none, T := { s.T with op := op, args := args, tout := tout, phase := .send }, running := some i })
    hf rfl rfl).trans (exec_of_inPhase_send hsome ⟨rfl, rfl⟩))
  rw [State.sent, encode_of_request hi]
  exact hrequest.trans ((run_add (s.rxq.length + 1) 1 hdrain).trans hsend)

end Sys2Proof.Machine
end

section
/-! PROOFS. An exchange that nothing answers (R136, R139, R146): its scan passes change nothing before the deadline, and the first pass at
the deadline fails it. -/

namespace Sys2Proof.Machine

/-- Before the deadline any number of turns with no byte waiting leave the scan as it is (R138). -/
theorem run_scanWaits {i : Instr} (hi : i.request.isSome = true) {k : Nat} : ∀ {s : State} {es : List Stimulus}, s.fault = none →
    s.InPhase i .scan → (s.now - s.T.t0).toNat < s.T.tout.toNat → s.rxq = [] → s.frameOut = none →
    s.agenda = List.replicate k .block ++ es → core.run k s = .next (s.turn es) := by
  induction k with
  | zero =>
    intro s es _ _ _ _ hout ha
    have ha : s.agenda = es := ha
    rw [run_zero, State.turn, ← ha, ← hout]
  | succ k ih =>
    intro s es hf hp ht hq hout ha
    have hwait := scanWaitsForAByte i (s.turn (List.replicate k .block ++ es)) hi hp ht hq
    exact (run_succ k ((step_block hf hp.1 ha).trans hwait)).trans
      (ih (s := s.turn (List.replicate k .block ++ es)) hf hp ht hq rfl rfl)

/-- After the send, `d` ms on and with no byte waiting, the scan goes on as long as less than the timeout has passed (R136, R138). -/
theorem run_sent_waits {s : State} {i : Instr} {op : Half} {args : List Byte} {tout d : Millis} {k : Nat} {es : List Stimulus}
    (hi : i.request = some (op, args, tout)) (hf : s.fault = none) (hfree : s.Free) (hargs : args.length ≤ Config.txArgMax)
    (hd : d.toNat < tout.toNat)
    (ha : s.agenda = .call i :: (List.replicate (s.rxq.length + 2) .block ++ .clk (s.now + d) :: (List.replicate k .block ++ es))) :
    core.run (s.rxq.length + 4 + k) s = .next ((s.sent i op args tout es).setClock (s.now + d)) := by
  have hsome : i.request.isSome = true := by simp [hi]
  have hclk := step_clk (s := s.sent i op args tout (.clk (s.now + d) :: (List.replicate k .block ++ es))) hf rfl
  have htime : (s.now + d - s.now).toNat < tout.toNat := by rwa [BitVec.add_comm, BitVec.add_sub_cancel]
  have hwait := run_scanWaits (s := (s.sent i op args tout (List.replicate k .block ++ es)).setClock (s.now + d)) hsome hf ⟨rfl, rfl⟩
    htime rfl rfl rfl
  exact (run_add (s.rxq.length + 4) k ((run_add (s.rxq.length + 3) 1 (run_sent hi hf hfree hargs ha)).trans (run_succ 0 hclk))).trans hwait

/-- Settles O18: after the send the passes wait while less than the timeout has passed, and the pass at the timeout fails the exchange
(R136, R139, R146). -/
theorem unansweredExchangeFailsAtItsDeadline : Obligations.UnansweredExchangeFailsAtItsDeadline := by
  intro s i op args tout d k hi hf hfree hargs hd ha
  have hsome : i.request.isSome = true := by simp [hi]
  have hwaits := run_sent_waits (k := k) (es := [.clk (s.now + tout), .block]) hi hf hfree hargs hd (by simpa using ha)
  have hclk := step_clk (s := (s.sent i op args tout [.clk (s.now + tout), .block]).setClock (s.now + d)) (es := [.block]) hf rfl
  have htime : (s.now + tout - s.now).toNat ≥ tout.toNat := by rw [BitVec.add_comm, BitVec.add_sub_cancel]
  have hfails := deadlineFailsTheExchange i ((s.sent i op args tout []).setClock (s.now + tout)) hsome ⟨rfl, rfl⟩ htime
  have hlast := step_block (s := (s.sent i op args tout [.block]).setClock (s.now + tout)) (i := i) hf rfl rfl
  refine ⟨⟨_, hwaits, ⟨rfl, rfl⟩, rfl, rfl⟩, ⟨_, (run_add _ 2 hwaits).trans ((run_succ 1 hclk).trans (run_succ 0 (hlast.trans hfails))),
    ⟨rfl, rfl⟩, rfl, rfl, rfl, rfl, rfl, rfl, rfl, rfl⟩⟩

end Sys2Proof.Machine
end

section
/-! PROOFS. An exchange that is answered (R140 to R145, R147): the scan takes the header and the length of the acknowledgement, then its
payload, whose last byte ends the exchange. -/

namespace Sys2Proof.Machine

/-- A turn is taken off the agenda, which leaves `es`, and the oldest byte off RXQ, which leaves `bs`. -/
def State.turnByte (s : State) (es : List Stimulus) (bs : List Byte) : State := { s.turn es with rxq := bs }

/-- Before the deadline a turn of the block is the action of the oldest byte, if the scan goes on after it (R138). -/
theorem step_of_scanByte {i : Instr} {s t : State} {b : Byte} {bs : List Byte} {es : List Stimulus} (hi : i.request.isSome = true)
    (hf : s.fault = none) (hp : s.InPhase i .scan) (ht : (s.now - s.T.t0).toNat < s.T.tout.toNat) (hq : s.rxq = b :: bs)
    (ha : s.agenda = .block :: es) (hbyte : scanByte b (s.turnByte es bs) = .next t) (hscan : t.T.phase = .scan) :
    step s = .next t :=
  (step_block hf hp.1 ha).trans (exec_of_scanByte (s := s.turn es) hi hp ht hq hbyte hscan)

/-- The scan at position `pos` with the bytes `bs` waiting and `n` turns of the block to come before `es`. -/
def State.scanAt (s : State) (pos : Pos) (bs : List Byte) (n : Nat) (es : List Stimulus) : State :=
  { s.turn (List.replicate n .block ++ es) with rxq := bs, T := { s.T with pos := pos } }

/-- The high length byte of a length of 2 to 250, after the low one (R142). -/
theorem scanLenHigh_byteOf {s : State} {len : Half} (hlow : s.T.len = zext16 (byteOf len 0))
    (hlen : 2 ≤ len.toNat ∧ len.toNat ≤ Config.txBufCap) :
    scanLenHigh (byteOf len 1) s = { s with T := { s.T with len := len, idx := 0, pos := .pl } } := by
  have hassembled : le16 (lowByte s.T.len) (byteOf len 1) = len := by
    rw [hlow, lowByte, zext16, BitVec.setWidth_setWidth_of_le _ (by decide), BitVec.setWidth_eq, le16_byteOf]
  have hin : ¬ (len.toNat < 2 ∨ len.toNat > Config.txBufCap) := by omega
  simp only [scanLenHigh, hassembled, if_neg hin]

/-- The six bytes of header and length lead from position H0 to PL (R140 to R142). -/
theorem run_ackHeader {i : Instr} {s : State} {len : Half} {bs : List Byte} {n : Nat} {es : List Stimulus} (hi : i.request.isSome = true)
    (hf : s.fault = none) (hp : s.InPhase i .scan) (ht : (s.now - s.T.t0).toNat < s.T.tout.toNat)
    (hlen : 2 ≤ len.toNat ∧ len.toNat ≤ Config.txBufCap) :
    core.run 6 (s.scanAt .h0 (hdr .config ++ u16le len ++ bs) (n + 6) es) =
      .next (State.scanAt { s with T := { s.T with len := len, idx := 0 } } .pl bs n es) := by
  have header : ∀ {pos good : Pos} {b : Byte} {rest : List Byte} {k : Nat},
      scanByte b (s.scanAt pos rest k es) = .next (s.scanAt good rest k es) →
      step (s.scanAt pos (b :: rest) (k + 1) es) = .next (s.scanAt good rest k es) :=
    fun hbyte => step_of_scanByte hi hf hp ht rfl rfl hbyte hp.2
  have hlow : step (s.scanAt .l0 (byteOf len 0 :: byteOf len 1 :: bs) (n + 2) es) = .next
      (State.scanAt { s with T := { s.T with len := zext16 (byteOf len 0) } } .l1 (byteOf len 1 :: bs) (n + 1) es) :=
    step_of_scanByte hi hf hp ht rfl rfl rfl hp.2
  have hhigh : step (State.scanAt { s with T := { s.T with len := zext16 (byteOf len 0) } } .l1 (byteOf len 1 :: bs) (n + 1) es) =
      .next (State.scanAt { s with T := { s.T with len := len, idx := 0 } } .pl bs n es) :=
    step_of_scanByte hi hf hp ht rfl rfl (congrArg Host.Outcome.next (scanLenHigh_byteOf rfl hlen)) hp.2
  calc core.run 6 (s.scanAt .h0 (hdr .config ++ u16le len ++ bs) (n + 6) es)
    _ = core.run 5 (s.scanAt .h1 (0xFC :: 0xFB :: 0xFA :: byteOf len 0 :: byteOf len 1 :: bs) (n + 5) es) := run_succ 5 (header rfl)
    _ = core.run 4 (s.scanAt .h2 (0xFB :: 0xFA :: byteOf len 0 :: byteOf len 1 :: bs) (n + 4) es) := run_succ 4 (header rfl)
    _ = core.run 3 (s.scanAt .h3 (0xFA :: byteOf len 0 :: byteOf len 1 :: bs) (n + 3) es) := run_succ 3 (header rfl)
    _ = core.run 2 (s.scanAt .l0 (byteOf len 0 :: byteOf len 1 :: bs) (n + 2) es) := run_succ 2 (header rfl)
    _ = _ := (run_succ 1 hlow).trans (run_succ 0 hhigh)

/-- The exchange of operation `i` has ended with `payload`, the operation has returned, and `tail` is left unread (R145, R147). -/
def State.acknowledged (s : State) (i : Instr) (payload tail : List Byte) (m : Memory) (idx : Byte) : State :=
  { s with
    rxq := tail, T := { s.T with buf := m, idx := idx, ok := true, resp := payload, phase := .idle },
    C := { s.C with cfgMode := cfgModeAfter i s.C.cfgMode }, running := none, response := some (responseOf i true payload) }

/-- The payload of a matching acknowledgement is stored byte by byte, and its last byte ends the exchange (R143 to R145). -/
theorem run_ackPayload {i : Instr} {xs tail : List Byte} (hi : i.request.isSome = true) : ∀ {s : State} {x : Byte} {es : List Stimulus},
    s.fault = none → s.InPhase i .scan → (s.now - s.T.t0).toNat < s.T.tout.toNat → s.T.pos = .pl → s.T.Inv →
    s.rxq = x :: (xs ++ tail) → s.T.idx.toNat + (xs.length + 1) = s.T.len.toNat →
    s.agenda = List.replicate (xs.length + 1) .block ++ es →
    le16 ((s.T.buf.range 0 s.T.idx.toNat ++ x :: xs).getD 0 0) ((s.T.buf.range 0 s.T.idx.toNat ++ x :: xs).getD 1 0) = s.T.op →
    ∃ m idx, core.run (xs.length + 1) s =
      .next ((s.turn es).acknowledged i (s.T.buf.range 0 s.T.idx.toNat ++ x :: xs) tail m idx) := by
  induction xs with
  | nil =>
    intro s x es hf hp ht hpos hinv hq hlen ha hecho
    have hlast := matchingOpcodeEndsTheExchange i (s.turn es) x tail hi hp ht hq hpos hinv hlen hecho
    exact ⟨_, _, run_succ 0 ((step_block hf hp.1 ha).trans hlast)⟩
  | cons y ys ih =>
    intro s x es hf hp ht hpos hinv hq hlen ha hecho
    simp only [List.length_cons] at hlen
    have hmore : s.T.idx.toNat + 1 ≠ s.T.len.toNat := by omega
    have hpayload : (s.T.buf.write s.T.idx.toNat x).range 0 (s.T.idx + 1).toNat ++ y :: ys =
        s.T.buf.range 0 s.T.idx.toNat ++ x :: y :: ys := by
      obtain ⟨-, -, -, ⟨hwf, -⟩, -⟩ := id hinv
      rw [hinv.idx_succ_toNat, Memory.range_write_next x hwf, List.append_assoc, List.singleton_append]
    let u := s.turnByte (List.replicate (ys.length + 1) .block ++ es) (y :: (ys ++ tail))
    have hbyte : scanByte x u = .next (scanStore x u) := (scanByte_of_pl (s := u) hinv hp.2 hpos).trans (if_neg hmore)
    have hstep := run_succ (ys.length + 1) (step_of_scanByte hi hf hp ht hq ha hbyte hp.2)
    have hcount : (scanStore x u).T.idx.toNat + (ys.length + 1) = s.T.len.toNat := by
      show (s.T.idx + 1).toNat + (ys.length + 1) = s.T.len.toNat
      rw [hinv.idx_succ_toNat]
      omega
    have hbuf : (scanStore x u).T.buf.range 0 (scanStore x u).T.idx.toNat ++ y :: ys = _ := hpayload
    obtain ⟨m, idx, hrest⟩ := ih (s := scanStore x u) (es := es) hf hp ht hpos (scanStore_inv (s := u) hinv hp.2 hpos hmore) rfl hcount rfl
      (by rw [hbuf]; exact hecho)
    rw [hbuf] at hrest
    exact ⟨m, idx, hstep.trans hrest⟩

/-- A matching acknowledgement, in as many turns as it has bytes before its footer (R140 to R145). -/
theorem run_acknowledgement {i : Instr} {s : State} {rest tail : List Byte} {es : List Stimulus} (hi : i.request.isSome = true)
    (hf : s.fault = none) (hp : s.InPhase i .scan) (ht : (s.now - s.T.t0).toNat < s.T.tout.toNat) (hinv : s.T.Inv)
    (hrest : 2 + rest.length ≤ Config.txBufCap) :
    ∃ m idx, core.run (6 + (rest.length + 2)) (s.scanAt .h0 (encodeAck s.T.op rest ++ tail) (rest.length + 2 + 6) es) =
      .next ((State.scanAt { s with T := { s.T with len := BitVec.ofNat 16 (2 + rest.length), idx := 0 } } .pl [] 0 es).acknowledged i
        (u16le s.T.op ++ rest) tail m idx) := by
  have hlen : (BitVec.ofNat 16 (2 + rest.length)).toNat = 2 + rest.length := by
    simp only [Config.txBufCap] at hrest
    rw [BitVec.toNat_ofNat]
    omega
  have hbounds : 2 ≤ (BitVec.ofNat 16 (2 + rest.length)).toNat ∧ (BitVec.ofNat 16 (2 + rest.length)).toNat ≤ Config.txBufCap := by
    rw [hlen]
    exact ⟨Nat.le_add_right 2 _, hrest⟩
  have hack : encodeAck s.T.op rest ++ tail = hdr .config ++ u16le (BitVec.ofNat 16 (2 + rest.length)) ++
      (byteOf s.T.op 0 :: (byteOf s.T.op 1 :: rest ++ tail)) := by simp [encodeAck, u16le]
  have hcount : (0 : Byte).toNat + (rest.length + 1 + 1) = (BitVec.ofNat 16 (2 + rest.length)).toNat := by
    rw [hlen, show (0 : Byte).toNat = 0 from rfl]
    omega
  have hheader := run_ackHeader (bs := byteOf s.T.op 0 :: (byteOf s.T.op 1 :: rest ++ tail)) (n := rest.length + 2) (es := es)
    hi hf hp ht hbounds
  obtain ⟨m, idx, hpayload⟩ := run_ackPayload (xs := byteOf s.T.op 1 :: rest) (tail := tail) hi (es := es)
    (s := State.scanAt { s with T := { s.T with len := BitVec.ofNat 16 (2 + rest.length), idx := 0 } } .pl
      (byteOf s.T.op 0 :: (byteOf s.T.op 1 :: rest ++ tail)) (rest.length + 2) es)
    hf hp ht rfl (hinv.payload_begins hbounds) rfl hcount rfl (le16_getD_u16le_append s.T.op rest)
  rw [hack]
  exact ⟨m, idx, (run_add 6 (rest.length + 2) hheader).trans hpayload⟩

/-- Settles O17: the request, the drain and the send, then the append, and a turn for each byte of the acknowledgement (R131 to R147). -/
theorem exchangeSucceedsOnMatchingAcknowledgement : Obligations.ExchangeSucceedsOnMatchingAcknowledgement := by
  intro s i op args tout rest tail hi hs hf hfree hargs hrest htout ha
  have hsome : i.request.isSome = true := by simp [hi]
  have hturns : (encodeAck op rest).length = rest.length + 2 + 6 := by
    simp only [encodeAck, List.length_append, length_hdr, length_u16le]
    omega
  have htime : (s.now - s.now).toNat < tout.toNat := by
    rw [BitVec.sub_self]
    exact Nat.pos_of_ne_zero fun h => htout (BitVec.eq_of_toNat_eq h)
  rw [hturns, ← List.append_nil (List.replicate (rest.length + 2 + 6) Stimulus.block)] at ha
  have hdelivered := (run_add (s.rxq.length + 3) 1 (run_sent hi hf hfree hargs ha)).trans (run_succ 0 (step_rx hf rfl))
  obtain ⟨-, hinv, -⟩ := run_inv hs hdelivered
  obtain ⟨m, idx, hack⟩ := run_acknowledgement (s := s.sent i op args tout []) (tail := tail) (es := []) hsome hf ⟨rfl, rfl⟩ htime hinv hrest
  have hrun := (run_add (s.rxq.length + 4) (6 + (rest.length + 2)) hdelivered).trans hack
  rw [hturns, Nat.add_comm (rest.length + 2) 6]
  exact ⟨_, hrun, rfl, rfl, rfl, rfl, ⟨rfl, rfl⟩, rfl, rfl, rfl, rfl, rfl, rfl⟩

end Sys2Proof.Machine
end

section
/-! PROOFS. A stream that never empties (R227, decision D12): between an append and the next a turn of the block takes at most one byte, so
RXQ is empty at no check. -/

namespace Sys2Proof.Machine

/-- A property that every step hands on holds all along a run. -/
theorem run_of_step_keeps {Q : State → Prop} (hstep : ∀ s, Q s → ∃ t, step s = .next t ∧ Q t) :
    ∀ (n : Nat) {s : State}, Q s → ∃ t, core.run n s = .next t ∧ Q t
  | 0, s, hs => ⟨s, rfl, hs⟩
  | n + 1, s, hs => by
    obtain ⟨u, hu, hQ⟩ := hstep s hs
    obtain ⟨t, ht, hQt⟩ := run_of_step_keeps hstep n hQ
    exact ⟨t, (run_succ n hu).trans ht, hQt⟩

/-- The cycle of one append of the bytes `b :: bs` and one turn of the block, and RXQ not empty when the turn is next (R227). -/
structure Flooded (b : Byte) (bs : List Byte) (s : State) : Prop where
  fault : s.fault = none
  endless : s.endless = .cycle (.rx (b :: bs)) [.block]
  turn : s.agenda = [] ∨ (s.agenda = [.block] ∧ s.rxq ≠ [])

/-- A step of the cycle is the append, or the turn of the block with a byte waiting. -/
theorem Flooded.step {b : Byte} {bs : List Byte} {s : State} {i : Instr} (h : Flooded b bs s) (hrun : s.running = some i) :
    (step s = .next ((s.turn [.block]).appendRx (b :: bs)) ∧ Flooded b bs ((s.turn [.block]).appendRx (b :: bs))) ∨
    ∃ c cs, s.rxq = c :: cs ∧ step s = exec i (s.turn []) := by
  rcases h.turn with ha | ⟨ha, hq⟩
  · obtain ⟨-, -, -, hacts⟩ := outsideActsChangeOnlyTheirPort s
    refine .inl ⟨?_, h.fault, h.endless, .inr ⟨rfl, by simp⟩⟩
    rw [(hacts h.fault).1 _ (State.nextAct_cycle ha h.endless), State.takeAct_of_cycle ha h.endless]
    rfl
  · obtain ⟨c, cs, hcs⟩ := List.exists_cons_of_ne_nil hq
    exact .inr ⟨c, cs, hcs, step_block h.fault hrun ha⟩

/-- The drain under such a cycle: unit T is as it was, and nothing is sent (R133, R227). -/
structure Draining (b : Byte) (bs : List Byte) (i : Instr) (s t : State) : Prop where
  flooded : Flooded b bs t
  inPhase : t.InPhase i .drain
  T : t.T = s.T
  txq : t.txq = s.txq
  P : t.P = s.P
  C : t.C = s.C
  response : t.response = s.response

theorem Draining.step {b : Byte} {bs : List Byte} {i : Instr} {s t : State} (hi : i.request.isSome = true) (h : Draining b bs i s t) :
    ∃ u, step t = .next u ∧ Draining b bs i s u := by
  rcases h.flooded.step h.inPhase.1 with ⟨hrx, hflood⟩ | ⟨c, cs, hq, hturn⟩
  · exact ⟨_, hrx, hflood, h.inPhase, h.T, h.txq, h.P, h.C, h.response⟩
  · have hdiscard := (drainDiscardsUntilEmpty i (t.turn []) hi h.inPhase).1 c cs hq
    exact ⟨_, hturn.trans hdiscard, ⟨h.flooded.fault, h.flooded.endless, .inl rfl⟩, h.inPhase, h.T, h.txq, h.P, h.C, h.response⟩

/-- UPDATE under such a cycle: unit T and TXQ are as they were (R165, R183, R227). -/
structure Updating (b : Byte) (bs : List Byte) (s t : State) : Prop where
  flooded : Flooded b bs t
  running : t.running = some .update
  idle : t.T.phase = .idle
  parser : t.P.Inv
  T : t.T = s.T
  txq : t.txq = s.txq
  response : t.response = s.response

theorem Updating.step {b : Byte} {bs : List Byte} {s t : State} (h : Updating b bs s t) : ∃ u, step t = .next u ∧ Updating b bs s u := by
  rcases h.flooded.step h.running with ⟨hrx, hflood⟩ | ⟨c, cs, hq, hturn⟩
  · exact ⟨_, hrx, hflood, h.running, h.idle, h.parser, h.T, h.txq, h.response⟩
  · obtain ⟨fo, tr, hbyte⟩ := exec_update_cons (s := t.turn []) h.idle (.inr h.running) h.parser hq
    exact ⟨_, hturn.trans hbyte, ⟨h.flooded.fault, h.flooded.endless, .inl rfl⟩, rfl, h.idle, parserStep_inv c h.parser, h.T, h.txq,
      h.response⟩

/-- Settles O60: each step of the cycle hands the loop on (R227). -/
theorem aStreamThatNeverEmptiesKeepsTheLoops : Obligations.AStreamThatNeverEmptiesKeepsTheLoops := by
  intro s b bs hf ha he
  refine ⟨fun i hi hp n => ?drain, fun hrun hidle hP n => ?update⟩
  case drain =>
    obtain ⟨t, ht, h⟩ := run_of_step_keeps (fun _ h => Draining.step hi h) n
      (⟨⟨hf, he, .inl ha⟩, hp, rfl, rfl, rfl, rfl, rfl⟩ : Draining b bs i s s)
    exact ⟨t, ht, h.inPhase, h.T, h.txq, h.P, h.C, h.response⟩
  case update =>
    obtain ⟨t, ht, h⟩ := run_of_step_keeps (fun _ h => Updating.step h) n
      (⟨⟨hf, he, .inl ha⟩, hrun, hidle, hP, rfl, rfl, rfl⟩ : Updating b bs s s)
    exact ⟨t, ht, h.running, h.T, h.txq, h.response⟩

end Sys2Proof.Machine
end

section
/-! PROOFS. The fields of a binary32 (I-G3), and GET_M's special cases (R175). -/

namespace Sys2Proof.Machine

theorem f32Exp_or (x y : Word) : f32Exp (x ||| y) = f32Exp x ||| f32Exp y := by
  simp only [f32Exp, BitVec.toNat_or, ← Nat.shiftRight_eq_div_pow, Nat.shiftRight_or_distrib, Nat.or_mod_two_pow]

theorem f32Frac_or (x y : Word) : f32Frac (x ||| y) = f32Frac x ||| f32Frac y := by
  simp only [f32Frac, BitVec.toNat_or, Nat.or_mod_two_pow]

/-- An exponent field joined with one of all ones is all ones. -/
theorem f32Exp_or_allOnes (x : Word) : f32Exp (x ||| 0x7F800000) = 255 := by
  have hlt : f32Exp x < 2 ^ 8 := Nat.mod_lt _ (by decide)
  have hones : f32Exp 0x7F800000 = 255 := rfl
  rw [f32Exp_or, hones]
  exact Nat.le_antisymm (Nat.le_of_lt_succ (Nat.or_lt_two_pow hlt (by decide : 255 < 2 ^ 8))) Nat.right_le_or

/-- Every NaN that `nanFrom` makes is one (log 17). -/
theorem f32IsNan_nanFrom (free : Word) : f32IsNan (nanFrom free) = true := by
  have hexp := f32Exp_or_allOnes free
  rw [f32IsNan, decide_eq_true_iff, nanFrom]
  split
  · refine ⟨by rw [f32Exp_or, hexp]; rfl, ?_⟩
    have hone : f32Frac 1 = 1 := rfl
    rw [f32Frac_or, hone]
    exact Nat.ne_of_gt (Nat.lt_of_lt_of_le Nat.one_pos Nat.right_le_or)
  · next hfrac => exact ⟨hexp, hfrac⟩

theorem f32DivNat_of_nan {x : Word} {d : Nat} (h : f32IsNan x = true) : f32DivNat x d = nanFrom (Config.nanQuotient x) := by
  rw [f32DivNat, if_pos h]

theorem f32DivNat_of_inf {x : Word} {d : Nat} (h : f32IsInf x = true) : f32DivNat x d = x := by
  have hnan : ¬ f32IsNan x = true := by
    simp only [f32IsInf, f32IsNan, decide_eq_true_eq] at h ⊢
    exact fun hnan => hnan.2 h.2
  rw [f32DivNat, if_neg hnan, if_pos h]

/-- A finite value is divided by its own rule, or is a zero and goes through. -/
theorem f32DivNat_of_finite {x : Word} {d : Nat} (h : f32IsFinite x) :
    f32DivNat x d = if f32IsZero x then x else f32Sign x ||| BitVec.ofNat 32 (f32QuotientBits x d) := by
  have hnan : ¬ f32IsNan x = true := by simp [f32IsNan, h]
  have hinf : ¬ f32IsInf x = true := by simp [f32IsInf, h]
  rw [f32DivNat, if_neg hnan, if_neg hinf]

theorem f32IsFinite_of_isZero {x : Word} (h : f32IsZero x = true) : f32IsFinite x := by
  simp only [f32IsZero, decide_eq_true_eq] at h
  simp [h.1]

/-- Settles O22: GET_M is the division on a free port; a NaN, an infinity and a zero are its first three branches (R175). -/
theorem getMReturnsTheReadingInMetres : Obligations.GetMReturnsTheReadingInMetres := by
  intro s hfree
  refine ⟨f32DivNat s.C.mmBits 1000, ?exec, rfl, fun h => ?nan, fun h => ?inf, fun h => ?zero⟩
  case exec =>
    show s.whenFree (s.respond (.f32 (f32DivNat s.C.mmBits 1000))) = _
    rw [State.whenFree_of_free hfree, State.respond_of_free hfree]
  case nan => rw [f32DivNat_of_nan h, f32IsNan_nanFrom]
  case inf => exact f32DivNat_of_inf h
  case zero => rw [f32DivNat_of_finite (f32IsFinite_of_isZero h), if_pos h]

end Sys2Proof.Machine
end

section
/-! PROOFS. Rounding to nearest, ties to even, on whole numbers (decision D23). -/

namespace Sys2Proof.Machine

/-- `roundEven` of the whole quotient `n / d` and its remainder is a whole number nearest to `n / (d * 2 ^ sh)`, an even one when two are
equally near. -/
theorem roundEven_nearest {n d sh R : Nat} (hd : 0 < d) (hsh : 0 < sh) (hR : roundEven (n / d) sh (decide (n % d ≠ 0)) = R) :
    2 * n ≤ 2 * (R * (d * 2 ^ sh)) + d * 2 ^ sh ∧ 2 * (R * (d * 2 ^ sh)) ≤ 2 * n + d * 2 ^ sh ∧
    (2 * n = 2 * (R * (d * 2 ^ sh)) + d * 2 ^ sh ∨ 2 * (R * (d * 2 ^ sh)) = 2 * n + d * 2 ^ sh → R % 2 = 0) := by
  obtain ⟨e, rfl⟩ := Nat.exists_eq_add_of_le' hsh
  have hpow : 2 ^ (e + 1) = 2 * 2 ^ e := Nat.pow_succ'
  simp only [roundEven, Nat.add_sub_cancel, hpow] at hR ⊢
  generalize hkept : n / d / (2 * 2 ^ e) = kept at hR
  generalize hlow : n / d % (2 * 2 ^ e) = low at hR
  generalize hrem : n % d = r at hR
  have hr : r < d := hrem ▸ Nat.mod_lt n hd
  have hn : n = 2 * (d * 2 ^ e * kept) + d * low + r := by
    rw [← Nat.div_add_mod n d, ← Nat.div_add_mod (n / d) (2 * 2 ^ e), hkept, hlow, hrem]
    ring
  have hR2 : R * (d * (2 * 2 ^ e)) = 2 * (d * 2 ^ e * R) := by ring
  have hD : d * (2 * 2 ^ e) = 2 * (d * 2 ^ e) := by ring
  have hup : d * 2 ^ e * (kept + 1) = d * 2 ^ e * kept + d * 2 ^ e := by ring
  have hlow2 : d * low + d ≤ 2 * (d * 2 ^ e) := by
    have hlt : low < 2 * 2 ^ e := hlow ▸ Nat.mod_lt _ (by positivity)
    exact hD ▸ (Nat.mul_succ d low).symm.trans_le (Nat.mul_le_mul_left d hlt)
  have habove : low > 2 ^ e → d * 2 ^ e + d ≤ d * low := fun h =>
    (Nat.mul_succ d (2 ^ e)).symm.trans_le (Nat.mul_le_mul_left d h)
  have hbelow : low < 2 ^ e → d * low + d ≤ d * 2 ^ e := fun h =>
    (Nat.mul_succ d low).symm.trans_le (Nat.mul_le_mul_left d h)
  have hhalf : low = 2 ^ e → d * low = d * 2 ^ e := fun h => by rw [h]
  rw [hR2, hD, hn]
  split at hR
  · next hcase =>
    subst hR
    rw [hup]
    simp only [decide_eq_true_eq] at hcase
    rcases hcase with hcase | ⟨hcase, hodd⟩
    · have := habove hcase
      omega
    · have := hhalf hcase
      omega
  · next hcase =>
    subst hR
    simp only [decide_eq_true_eq] at hcase
    by_cases heq : low = 2 ^ e
    · have := hhalf heq
      omega
    · have := hbelow (by omega)
      omega

/-- The kept part of the quotient bounds what it rounds to. -/
theorem roundEven_bounds (q sh : Nat) (sticky : Bool) : q / 2 ^ sh ≤ roundEven q sh sticky ∧ roundEven q sh sticky ≤ q / 2 ^ sh + 1 := by
  simp only [roundEven]
  split
  · exact ⟨Nat.le_succ _, Nat.le_refl _⟩
  · exact ⟨Nat.le_refl _, Nat.le_succ _⟩

end Sys2Proof.Machine
end

section
/-! PROOFS. The value of a binary32 and the nearest one to a quotient (decision D23, I-G3): all finite values are whole multiples of the unit
of the quotient's last place, or smaller than every value of its binade. -/

namespace Sys2Proof.Machine

/-- The sign of a binary32, as a factor. -/
def f32SignFactor (x : Word) : ℚ := if x.msb then -1 else 1

/-- The magnitude of a finite binary32. -/
def f32Magnitude (x : Word) : ℚ := (f32Mant x : ℚ) * (2 : ℚ) ^ ((f32ScaleExp x : ℤ) - 150)

theorem f32Value_eq (x : Word) : f32Value x = f32SignFactor x * f32Magnitude x := mul_assoc _ _ _

theorem abs_f32SignFactor (x : Word) : |f32SignFactor x| = 1 := by
  unfold f32SignFactor
  split <;> norm_num

theorem f32Frac_lt (x : Word) : f32Frac x < 2 ^ 23 := Nat.mod_lt _ (by decide)

theorem f32Exp_lt (x : Word) : f32Exp x < 2 ^ 8 := Nat.mod_lt _ (by decide)

/-- A significand has at most 24 bits. -/
theorem f32Mant_lt (x : Word) : f32Mant x < 2 ^ 24 := by
  have := f32Frac_lt x
  unfold f32Mant
  split <;> omega

theorem f32ScaleExp_pos (x : Word) : 1 ≤ f32ScaleExp x := by
  unfold f32ScaleExp
  split <;> omega

/-- The scale exponent of a finite value is at most 254. -/
theorem f32ScaleExp_le {x : Word} (h : f32IsFinite x) : f32ScaleExp x ≤ 254 := by
  have hne : f32Exp x ≠ 255 := h
  have := f32Exp_lt x
  unfold f32ScaleExp
  split <;> omega

/-- A finite value that is no zero has a significand. -/
theorem f32Mant_pos {x : Word} (h : ¬ f32IsZero x = true) : 0 < f32Mant x := by
  simp only [f32IsZero, decide_eq_true_eq, not_and] at h
  unfold f32Mant
  split
  · next he => exact Nat.pos_of_ne_zero (h he)
  · omega

/-- The sign bit of a value is its sign factor's, whatever its magnitude bits. -/
theorem f32Sign_eq (x : Word) : f32Sign x = if x.msb then 0x80000000 else 0 := by
  have hbit : (0x80000000 : Word) = BitVec.twoPow 32 31 := rfl
  rw [f32Sign, hbit, BitVec.and_twoPow, BitVec.msb_eq_getLsbD_last]
  rfl

/-- The fields of a value put together from a sign and magnitude bits. -/
theorem f32_of_magnitude_bits (x : Word) {m : Nat} (hm : m < 255 * 2 ^ 23) :
    f32Exp (f32Sign x ||| BitVec.ofNat 32 m) = m / 2 ^ 23 ∧ f32Frac (f32Sign x ||| BitVec.ofNat 32 m) = m % 2 ^ 23 ∧
    (f32Sign x ||| BitVec.ofNat 32 m).msb = x.msb ∧ (f32Sign x ||| BitVec.ofNat 32 m).toNat % 2 = m % 2 := by
  have hnat : (BitVec.ofNat 32 m).toNat = m := by rw [BitVec.toNat_ofNat]; omega
  have hexp : f32Exp (f32Sign x) = 0 := by rw [f32Sign_eq]; split <;> rfl
  have hfrac : f32Frac (f32Sign x) = 0 := by rw [f32Sign_eq]; split <;> rfl
  have hmsb : (f32Sign x).msb = x.msb := by rw [f32Sign_eq]; cases x.msb <;> rfl
  have heven : (f32Sign x).toNat % 2 = 0 := by rw [f32Sign_eq]; split <;> rfl
  refine ⟨?exp, ?frac, ?msb, ?parity⟩
  case exp => rw [f32Exp_or, hexp, Nat.zero_or, f32Exp, hnat]; omega
  case frac => rw [f32Frac_or, hfrac, Nat.zero_or, f32Frac, hnat]
  case msb =>
    have hlow : (BitVec.ofNat 32 m).msb = false := by rw [BitVec.msb_eq_decide, hnat]; simp; omega
    rw [BitVec.msb_or, hmsb, hlow, Bool.or_false]
  case parity =>
    have hor := Nat.or_mod_two_pow (a := (f32Sign x).toNat) (b := m) (n := 1)
    rw [pow_one, heven, Nat.zero_or] at hor
    rw [BitVec.toNat_or, hnat, hor]

theorem f32Magnitude_of_subnormal {w : Word} (hexp : f32Exp w = 0) : f32Magnitude w = f32Frac w * (2 : ℚ) ^ (-149 : ℤ) := by
  simp only [f32Magnitude, f32Mant, f32ScaleExp, hexp, if_true]
  norm_num

theorem f32Magnitude_of_normal {w : Word} {e : Nat} (hexp : f32Exp w = e + 1) :
    f32Magnitude w = ((2 ^ 23 + f32Frac w : ℕ) : ℚ) * (2 : ℚ) ^ ((e : ℤ) - 149) := by
  have hscale : ((e + 1 : ℕ) : ℤ) - 150 = (e : ℤ) - 149 := by omega
  simp only [f32Magnitude, f32Mant, f32ScaleExp, hexp, if_neg (Nat.succ_ne_zero e), hscale]

/-- Magnitude bits `k * 2 ^ 23 + R` with a significand `R` of up to 24 bits, rounded up or not, stand for `R` units of the last place of
binade `k`. -/
theorem f32Magnitude_of_bits {w : Word} {k R : Nat} (hR : R ≤ 2 ^ 24) (hk : k = 0 ∨ 2 ^ 23 ≤ R)
    (hexp : f32Exp w = (k * 2 ^ 23 + R) / 2 ^ 23) (hfrac : f32Frac w = (k * 2 ^ 23 + R) % 2 ^ 23) :
    f32Magnitude w = R * (2 : ℚ) ^ ((k : ℤ) - 149) := by
  rcases Nat.lt_or_ge R (2 ^ 23) with hsub | hnormal
  · obtain rfl : k = 0 := hk.resolve_right (by omega)
    have hfrac : f32Frac w = R := by omega
    rw [f32Magnitude_of_subnormal (by omega), hfrac]
    norm_num
  · rcases Nat.lt_or_ge R (2 ^ 24) with hlt | hcarry
    · have hmant : 2 ^ 23 + f32Frac w = R := by omega
      rw [f32Magnitude_of_normal (e := k) (by omega), hmant]
    · obtain rfl : R = 2 ^ 24 := by omega
      have hmant : 2 ^ 23 + f32Frac w = 2 ^ 23 := by omega
      have hunit : (2 : ℚ) ^ (((k + 1 : ℕ) : ℤ) - 149) = 2 * 2 ^ ((k : ℤ) - 149) := by
        rw [show ((k + 1 : ℕ) : ℤ) - 149 = 1 + ((k : ℤ) - 149) by omega, zpow_add₀ two_ne_zero, zpow_one]
      rw [f32Magnitude_of_normal (e := k + 1) (by omega), hmant, hunit]
      push_cast
      ring

/-- A whole number within a half of `X` is at least as near as every other, and an even one if another is as near. -/
theorem nearest_of_abs_le_half {X : ℚ} {R : Nat} (hhalf : |(R : ℚ) - X| ≤ 1 / 2) (heven : |(R : ℚ) - X| = 1 / 2 → R % 2 = 0) (z : ℤ) :
    |(R : ℚ) - X| ≤ |(z : ℚ) - X| ∧ (|(R : ℚ) - X| = |(z : ℚ) - X| → (z : ℚ) ≠ R → R % 2 = 0) := by
  by_cases hz : z = R
  · subst hz
    exact ⟨by simp, fun _ hne => absurd (by simp) hne⟩
  · have hone : (1 : ℚ) ≤ |(z : ℚ) - R| := by
      have : (1 : ℤ) ≤ |z - R| := Int.one_le_abs (sub_ne_zero.2 hz)
      exact_mod_cast this
    have htri : |(z : ℚ) - R| ≤ |(z : ℚ) - X| + |(R : ℚ) - X| := by
      rw [abs_sub_comm (R : ℚ) X]
      exact abs_sub_le _ _ _
    exact ⟨by linarith, fun htie _ => heven (by linarith)⟩

/-- Every finite magnitude is a whole number of the units of binade `k`, or lies below that binade. -/
theorem f32Magnitude_whole_or_below (y : Word) (k : Nat) :
    (∃ z : ℕ, f32Magnitude y = z * (2 : ℚ) ^ ((k : ℤ) - 149)) ∨ (0 < k ∧ f32Magnitude y < 2 ^ 23 * (2 : ℚ) ^ ((k : ℤ) - 149)) := by
  have hpos := f32ScaleExp_pos y
  by_cases hk : k + 1 ≤ f32ScaleExp y
  · refine .inl ⟨f32Mant y * 2 ^ (f32ScaleExp y - (k + 1)), ?_⟩
    have hexp : (f32ScaleExp y : ℤ) - 150 = ((f32ScaleExp y - (k + 1) : ℕ) : ℤ) + ((k : ℤ) - 149) := by omega
    rw [f32Magnitude, hexp, zpow_add₀ two_ne_zero, zpow_natCast]
    push_cast
    ring
  · refine .inr ⟨by omega, ?_⟩
    have hmant : (f32Mant y : ℚ) < 2 ^ 24 := by exact_mod_cast f32Mant_lt y
    have hunit : (2 : ℚ) ^ ((k : ℤ) - 149) = 2 * 2 ^ ((k : ℤ) - 150) := by
      rw [show (k : ℤ) - 149 = 1 + ((k : ℤ) - 150) by ring, zpow_add₀ two_ne_zero, zpow_one]
    have hle : (2 : ℚ) ^ ((f32ScaleExp y : ℤ) - 150) ≤ 2 ^ ((k : ℤ) - 150) := zpow_le_zpow_right₀ one_le_two (by omega)
    calc f32Magnitude y ≤ f32Mant y * 2 ^ ((k : ℤ) - 150) := mul_le_mul_of_nonneg_left hle (by positivity)
      _ < 2 ^ 24 * 2 ^ ((k : ℤ) - 150) := mul_lt_mul_of_pos_right hmant (by positivity)
      _ = 2 ^ 23 * 2 ^ ((k : ℤ) - 149) := by rw [hunit]; ring

/-- A whole number nearest to `n / D` in whole numbers is within a half of it. -/
theorem abs_sub_div_le_half {n D R : Nat} (hD : 0 < D)
    (h : 2 * n ≤ 2 * (R * D) + D ∧ 2 * (R * D) ≤ 2 * n + D ∧ (2 * n = 2 * (R * D) + D ∨ 2 * (R * D) = 2 * n + D → R % 2 = 0)) :
    |(R : ℚ) - n / D| ≤ 1 / 2 ∧ (|(R : ℚ) - n / D| = 1 / 2 → R % 2 = 0) := by
  obtain ⟨hbelow, habove, heven⟩ := h
  have hDq : (0 : ℚ) < D := by exact_mod_cast hD
  have hn : (n : ℚ) / D * D = n := div_mul_cancel₀ _ hDq.ne'
  have hbelow : 2 * (n : ℚ) ≤ 2 * (R * D) + D := by exact_mod_cast hbelow
  have habove : 2 * ((R : ℚ) * D) ≤ 2 * n + D := by exact_mod_cast habove
  refine ⟨abs_le.2 ⟨?_, ?_⟩, fun htie => heven ?_⟩
  · exact le_of_mul_le_mul_right (by linarith) hDq
  · exact le_of_mul_le_mul_right (by linarith) hDq
  · rcases (abs_eq (by norm_num)).1 htie with h | h
    · right
      have : 2 * ((R : ℚ) * D) = 2 * n + D := by linear_combination 2 * D * h + 2 * hn
      exact_mod_cast this
    · left
      have : 2 * (n : ℚ) = 2 * (R * D) + D := by linear_combination -2 * D * h - 2 * hn
      exact_mod_cast this

/-- The shift that rounds a quotient of 31 to 55 bits: at least one bit goes, at most 24 bits and a carry are kept, exactly 24 above
binade 0, and no binade is past the last finite one. -/
theorem quotientShift_bounds {q E sh : Nat} (hlow : 2 ^ 30 ≤ q) (hhigh : q < 2 ^ 55) (hE : 1 ≤ E ∧ E ≤ 254)
    (hsh : max (q.log2 - 23) (41 - E) = sh) :
    0 < sh ∧ 41 ≤ sh + E ∧ sh + E - 41 ≤ 244 ∧ q / 2 ^ sh < 2 ^ 24 ∧ (0 < sh + E - 41 → 2 ^ 23 ≤ q / 2 ^ sh) := by
  have hq : q ≠ 0 := by omega
  have h30 : 30 ≤ q.log2 := (Nat.le_log2 hq).2 hlow
  have h55 : q.log2 < 55 := (Nat.log2_lt hq).2 hhigh
  refine ⟨by omega, by omega, by omega, ?_, fun hk => ?_⟩
  · rw [Nat.div_lt_iff_lt_mul (by positivity), ← pow_add]
    exact Nat.lt_log2_self.trans_le (Nat.pow_le_pow_right two_pos (by omega))
  · rw [Nat.le_div_iff_mul_le (by positivity), ← pow_add]
    exact (Nat.pow_le_pow_right two_pos (by omega)).trans (Nat.log2_self_le hq)

/-- What the magnitude bits of the quotient of a finite nonzero value by 1000 are: `R` units of the last place of binade `k`, where `R` is
nearest to the exact quotient `X` in those units. -/
structure QuotientBits (x : Word) (k R : Nat) (X : ℚ) : Prop where
  bits : f32QuotientBits x 1000 = k * 2 ^ 23 + R
  exact : f32Magnitude x / 1000 = X * (2 : ℚ) ^ ((k : ℤ) - 149)
  binade : k ≤ 244
  carry : R ≤ 2 ^ 24
  normal : k = 0 ∨ (2 ^ 23 ≤ R ∧ 2 ^ 23 ≤ X)
  half : |(R : ℚ) - X| ≤ 1 / 2
  even : |(R : ℚ) - X| = 1 / 2 → R % 2 = 0

theorem exists_quotientBits {x : Word} (hfin : f32IsFinite x) (hne : ¬ f32IsZero x = true) : ∃ k R X, QuotientBits x k R X := by
  have hE : 1 ≤ f32ScaleExp x ∧ f32ScaleExp x ≤ 254 := ⟨f32ScaleExp_pos x, f32ScaleExp_le hfin⟩
  have hpos := f32Mant_pos hne
  have hlt := f32Mant_lt x
  generalize hn : f32Mant x * 2 ^ 40 = n
  generalize hsh : max ((n / 1000).log2 - 23) (41 - f32ScaleExp x) = sh
  generalize hR : roundEven (n / 1000) sh (decide (n % 1000 ≠ 0)) = R
  obtain ⟨hsh0, h41, h244, hkept, hnormal⟩ := quotientShift_bounds (q := n / 1000) (by omega) (by omega) hE hsh
  obtain ⟨hmin, hmax⟩ := roundEven_bounds (n / 1000) sh (decide (n % 1000 ≠ 0))
  rw [hR] at hmin hmax
  obtain ⟨hhalf, heven⟩ := abs_sub_div_le_half (n := n) (by positivity) (roundEven_nearest (by decide) hsh0 hR)
  refine ⟨sh + f32ScaleExp x - 41, R, n / (1000 * 2 ^ sh : ℕ), ⟨?bits, ?exact, h244, by omega, ?normal, hhalf, heven⟩⟩
  case bits => simp only [f32QuotientBits, hn, hsh, hR]
  case exact =>
    have hscale : (((sh + f32ScaleExp x - 41 : ℕ) : ℤ) - 149) = (sh : ℤ) + ((f32ScaleExp x : ℤ) - 150) - 40 := by omega
    rw [hscale, zpow_sub₀ two_ne_zero, zpow_add₀ two_ne_zero, zpow_natCast, f32Magnitude, ← hn]
    push_cast
    field_simp
  case normal =>
    rcases Nat.eq_zero_or_pos (sh + f32ScaleExp x - 41) with hk | hk
    · exact .inl hk
    · have hkept := hnormal hk
      refine .inr ⟨hkept.trans hmin, ?_⟩
      rw [Nat.div_div_eq_div_mul, Nat.le_div_iff_mul_le (by positivity)] at hkept
      rw [le_div_iff₀ (by positivity)]
      exact_mod_cast hkept

/-- The rounded quotient is at least as near as any value that is whole in those units or lies below the binade. -/
theorem QuotientBits.nearest {x : Word} {k R : Nat} {X Z : ℚ} (h : QuotientBits x k R X) (hZ : (∃ z : ℤ, Z = z) ∨ (0 < k ∧ Z < 2 ^ 23)) :
    |(R : ℚ) - X| ≤ |Z - X| ∧ (|(R : ℚ) - X| = |Z - X| → Z ≠ R → R % 2 = 0) := by
  rcases hZ with ⟨z, rfl⟩ | ⟨hk, hbelow⟩
  · exact nearest_of_abs_le_half h.half h.even z
  · obtain ⟨-, hX⟩ := h.normal.resolve_left hk.ne'
    norm_num only at hX hbelow
    have hbinade := (nearest_of_abs_le_half h.half h.even 8388608).1
    push_cast at hbinade
    rw [abs_of_nonpos (a := 8388608 - X) (by linarith)] at hbinade
    rw [abs_of_neg (a := Z - X) (by linarith)]
    exact ⟨by linarith, fun htie => by linarith⟩

theorem f32SignFactor_cases (x : Word) : f32SignFactor x = 1 ∨ f32SignFactor x = -1 := by
  unfold f32SignFactor
  split
  · exact .inr rfl
  · exact .inl rfl

/-- Every finite value in the units of binade `k`, with the sign of another taken out. -/
theorem exists_f32Value_in_units (x y : Word) (k : Nat) :
    ∃ Z : ℚ, f32Value y = f32SignFactor x * (Z * (2 : ℚ) ^ ((k : ℤ) - 149)) ∧ ((∃ z : ℤ, Z = z) ∨ (0 < k ∧ Z < 2 ^ 23)) := by
  have hunit : (0 : ℚ) < 2 ^ ((k : ℤ) - 149) := by positivity
  have hmag : 0 ≤ f32Magnitude y := by unfold f32Magnitude; positivity
  have hsign : f32SignFactor y = f32SignFactor x ∨ f32SignFactor y = -f32SignFactor x := by
    rcases f32SignFactor_cases x with hx | hx <;> rcases f32SignFactor_cases y with hy | hy <;> simp [hx, hy]
  have hscaled : f32Magnitude y / 2 ^ ((k : ℤ) - 149) * 2 ^ ((k : ℤ) - 149) = f32Magnitude y := div_mul_cancel₀ _ hunit.ne'
  rw [f32Value_eq]
  rcases hsign with hs | hs <;> rw [hs]
  · refine ⟨f32Magnitude y / 2 ^ ((k : ℤ) - 149), by rw [hscaled], ?_⟩
    rcases f32Magnitude_whole_or_below y k with ⟨z, hz⟩ | ⟨hk, hlt⟩
    · exact .inl ⟨z, by rw [hz, mul_div_cancel_right₀ _ hunit.ne']; simp⟩
    · exact .inr ⟨hk, (div_lt_iff₀ hunit).2 hlt⟩
  · refine ⟨-(f32Magnitude y / 2 ^ ((k : ℤ) - 149)), by rw [neg_mul _ (2 ^ _ : ℚ), hscaled, mul_neg, neg_mul], ?_⟩
    rcases f32Magnitude_whole_or_below y k with ⟨z, hz⟩ | ⟨hk, -⟩
    · exact .inl ⟨-z, by rw [hz, mul_div_cancel_right₀ _ hunit.ne']; simp⟩
    · exact .inr ⟨hk, (neg_nonpos.2 (by positivity)).trans_lt (by norm_num)⟩

/-- A distance between two values of one sign, in units. -/
theorem abs_f32SignFactor_mul_sub (x : Word) (Z X : ℚ) {u : ℚ} (hu : 0 < u) :
    |f32SignFactor x * (Z * u) - f32SignFactor x * (X * u)| = |Z - X| * u := by
  rw [← mul_sub, ← sub_mul, abs_mul, abs_mul, abs_f32SignFactor, one_mul, abs_of_pos hu]

/-- A zero has the value 0. -/
theorem f32Value_of_isZero {x : Word} (h : f32IsZero x = true) : f32Value x = 0 := by
  simp only [f32IsZero, decide_eq_true_eq] at h
  simp [f32Value, f32Mant, h.1, h.2]

/-- Settles O23: a zero goes through; otherwise the quotient is the rounded significand in the units of its binade, and no finite value is
nearer (decision D23). -/
theorem metresAreTheNearestBinary32 : Obligations.MetresAreTheNearestBinary32 := by
  intro x hfin q
  by_cases hzero : f32IsZero x = true
  · have hq : q = x := by simp only [q, f32DivNat_of_finite hfin, if_pos hzero]
    rw [hq, f32Value_of_isZero hzero]
    refine ⟨hfin, rfl, fun y _ => ⟨by simp, fun htie hne => absurd ?_ hne⟩⟩
    have habs : |f32Value y| = 0 := by simpa [eq_comm] using htie
    exact abs_eq_zero.1 habs
  · obtain ⟨k, R, X, h⟩ := exists_quotientBits hfin hzero
    have hk := h.binade
    have hR := h.carry
    have hq : q = f32Sign x ||| BitVec.ofNat 32 (k * 2 ^ 23 + R) := by
      simp only [q, f32DivNat_of_finite hfin, if_neg hzero, h.bits]
    obtain ⟨hexp, hfrac, hmsb, hparity⟩ := f32_of_magnitude_bits x (m := k * 2 ^ 23 + R) (by omega)
    rw [← hq] at hexp hfrac hmsb hparity
    have hvalue : f32Value q = f32SignFactor x * (R * 2 ^ ((k : ℤ) - 149)) := by
      rw [f32Value_eq, f32Magnitude_of_bits hR (h.normal.imp id And.left) hexp hfrac, f32SignFactor, hmsb, f32SignFactor]
    have hexact : f32Value x / 1000 = f32SignFactor x * (X * 2 ^ ((k : ℤ) - 149)) := by
      rw [f32Value_eq, mul_div_assoc, h.exact]
    have hunit : (0 : ℚ) < 2 ^ ((k : ℤ) - 149) := by positivity
    refine ⟨by rw [f32IsFinite, hexp]; omega, hmsb, fun y _ => ?_⟩
    obtain ⟨Z, hy, hZ⟩ := exists_f32Value_in_units x y k
    obtain ⟨hnear, heven⟩ := h.nearest hZ
    rw [hvalue, hexact, hy, abs_f32SignFactor_mul_sub x _ _ hunit, abs_f32SignFactor_mul_sub x _ _ hunit]
    refine ⟨mul_le_mul_of_nonneg_right hnear hunit.le, fun htie hne => ?_⟩
    have hRe := heven (mul_right_cancel₀ hunit.ne' htie) (fun hZR => hne (by rw [hZR]))
    omega

end Sys2Proof.Machine
end
